-- ==== Sys2Proof/Word.lean ====
section
/-! DEFINITION. The word types of the machine (spec/00_scope.md R9: bits numbered from 0, least significant). -/

namespace Sys2Proof

/-- One byte of the program text (spec/20_memory.md R40, R42). -/
abbrev Byte := BitVec 8

/-- A 32-bit word: an instruction word, an AArch32 register, a CRC value. -/
abbrev Word := BitVec 32

/-- A 64-bit word: an AArch64 register (spec/10_state.md R21). -/
abbrev DWord := BitVec 64

end Sys2Proof
end

