-- ==== Sys2Proof/Config.lean ====
section
/-! DEFINITION. What an implementation or a launch fixes (spec/00_scope.md R6), as plain data the state carries, and
the free values of the constrained-unpredictable choices. -/

namespace Sys2Proof

/-- Which instruction set the machine decodes (parameter `VIEW`, R6, R32). -/
inductive View where
  | a64 | a32 | t32
  deriving DecidableEq, Repr, Inhabited

/-- The three behaviours the page allows for `size == 64` (spec/60_exceptions.md R114). -/
inductive Size64Behaviour where
  | undefined | nop | size32
  deriving DecidableEq, Repr, Inhabited

/-- The four behaviours the page allows for `cond != '1110'` (R115). -/
inductive CondBehaviour where
  | undefined | nop | unconditional | conditional
  deriving DecidableEq, Repr, Inhabited

/-- Parameter `CU_SIZE64` (R6, R114, D8): the default treatment (`Fault(Unpredictable)`), one behaviour for good, or a
behaviour that varies from execution to execution. -/
inductive CuSize64 where
  | defaultTreatment
  | always (b : Size64Behaviour)
  | varying
  deriving DecidableEq, Repr, Inhabited

/-- Parameter `CU_COND` (R6, R115, D8), in the same three forms. -/
inductive CuCond where
  | defaultTreatment
  | always (b : CondBehaviour)
  | varying
  deriving DecidableEq, Repr, Inhabited

/-- The configuration of R6: plain data the state carries and no step changes (R20). -/
structure Config where
  /-- `HAVE_AARCH32`: the PE has the AArch32 state at all (D2). -/
  haveAArch32 : Bool
  /-- `HAVE_CRC`: the value `HaveCRCExt()` returns (R8, R19, D5); it also stands for `ID_ISAR5.CRC32` (R35). -/
  haveCrc : Bool
  /-- `ADMIT_TITLE_CRC32C`: the decoder admits the four unsourced A64 rows (R100, D3). -/
  admitTitleCrc32c : Bool
  /-- `ADMIT_A32_CRC32C`: the decoder admits A1 and T1 words with C = 1 (D4). -/
  admitA32Crc32c : Bool
  /-- `CU_SIZE64` (R114). -/
  cuSize64 : CuSize64
  /-- `CU_COND` (R115). -/
  cuCond : CuCond
  deriving DecidableEq, Repr

/-- FREE VALUE (log 5): the behaviour a varying `CU_SIZE64` takes at the n-th draw. Nothing constrains it (D8). -/
opaque Config.freeSize64 : Nat → Size64Behaviour

/-- FREE VALUE (log 5): the behaviour a varying `CU_COND` takes at the n-th draw. Nothing constrains it (D8). -/
opaque Config.freeCond : Nat → CondBehaviour

end Sys2Proof
end

