-- ==== Sys2Proof/Syntax.lean ====
section
/-! DEFINITION. The instructions: one constructor per row of spec/opcode_table.json, fields in the order the encoding
draws them, high bits first. -/

namespace Sys2Proof

/-- `enumeration ExtendType` (spec/00_scope.md R15). -/
inductive ExtendType where
  | uxtb | uxth | uxtw | uxtx | sxtb | sxth | sxtw | sxtx
  deriving DecidableEq, Repr

/-- The 18 rows. In the A1 rows `cond` is bits 31:28, `sbzHi` bits 11:10 and `sbz8` bit 8, the bits drawn "(0)"
(spec/30_encoding.md R54). In the four `crc32w`/`crc32cw` AArch32 rows `size64` says that the word had `sz` = 11 rather
than 10 (log 7): R114 lets such a word run "with the additional decode: size = 32". In the A64 CRC rows `sf` is bit 31 as
the word has it, so the mismatches of R103 are instructions too (log 7). -/
inductive Instr where
  /-- R73 -/
  | addExt32 (rm : BitVec 5) (option : ExtendType) (imm3 : BitVec 3) (rn rd : BitVec 5)
  /-- R74 -/
  | addExt64 (rm : BitVec 5) (option : ExtendType) (imm3 : BitVec 3) (rn rd : BitVec 5)
  /-- R86 -/
  | crc32bA1 (cond rn rd : BitVec 4) (sbzHi : BitVec 2) (sbz8 : BitVec 1) (rm : BitVec 4)
  /-- R87 -/
  | crc32hA1 (cond rn rd : BitVec 4) (sbzHi : BitVec 2) (sbz8 : BitVec 1) (rm : BitVec 4)
  /-- R88; `size64` is the `sz` = 11 form of R114 -/
  | crc32wA1 (cond : BitVec 4) (size64 : Bool) (rn rd : BitVec 4) (sbzHi : BitVec 2) (sbz8 : BitVec 1) (rm : BitVec 4)
  /-- R89 -/
  | crc32bT1 (rn rd rm : BitVec 4)
  /-- R90 -/
  | crc32hT1 (rn rd rm : BitVec 4)
  /-- R91; `size64` is the `sz` = 11 form of R114 -/
  | crc32wT1 (rn rd : BitVec 4) (size64 : Bool) (rm : BitVec 4)
  /-- R92 -/
  | crc32cbA1 (cond rn rd : BitVec 4) (sbzHi : BitVec 2) (sbz8 : BitVec 1) (rm : BitVec 4)
  /-- R93 -/
  | crc32chA1 (cond rn rd : BitVec 4) (sbzHi : BitVec 2) (sbz8 : BitVec 1) (rm : BitVec 4)
  /-- R94; `size64` is the `sz` = 11 form of R114 -/
  | crc32cwA1 (cond : BitVec 4) (size64 : Bool) (rn rd : BitVec 4) (sbzHi : BitVec 2) (sbz8 : BitVec 1) (rm : BitVec 4)
  /-- R95 -/
  | crc32cbT1 (rn rd rm : BitVec 4)
  /-- R96 -/
  | crc32chT1 (rn rd rm : BitVec 4)
  /-- R97; `size64` is the `sz` = 11 form of R114 -/
  | crc32cwT1 (rn rd : BitVec 4) (size64 : Bool) (rm : BitVec 4)
  /-- R104 -/
  | crc32cbA64 (sf : Bool) (rm rn rd : BitVec 5)
  /-- R105 -/
  | crc32chA64 (sf : Bool) (rm rn rd : BitVec 5)
  /-- R106 -/
  | crc32cwA64 (sf : Bool) (rm rn rd : BitVec 5)
  /-- R107 -/
  | crc32cxA64 (sf : Bool) (rm rn rd : BitVec 5)
  deriving DecidableEq, Repr

end Sys2Proof
end

