-- ==== Sys2Proof/WellFormed.lean ====
section
/-! DEFINITION. Which terms of Instr are instructions of the encoding diagrams. Every field but one has exactly the
values its bits have; the A1 diagram alone excludes a value, `cond` = 1111 (spec/30_encoding.md R54, C3). -/

namespace Sys2Proof

/-- The A1 diagram's "cond (!= 1111)" (R54). -/
def condEncodable (cond : BitVec 4) : Bool := cond != 0b1111#4

/-- An instruction some word of its view's encoding stands for (R51, R54, R56; R102 for the A64 CRC rows). -/
def Instr.wellFormed : Instr → Bool
  | .addExt32 _ _ _ _ _ => true
  | .addExt64 _ _ _ _ _ => true
  | .crc32bA1 cond _ _ _ _ _ => condEncodable cond
  | .crc32hA1 cond _ _ _ _ _ => condEncodable cond
  | .crc32wA1 cond _ _ _ _ _ _ => condEncodable cond
  | .crc32bT1 _ _ _ => true
  | .crc32hT1 _ _ _ => true
  | .crc32wT1 _ _ _ _ => true
  | .crc32cbA1 cond _ _ _ _ _ => condEncodable cond
  | .crc32chA1 cond _ _ _ _ _ => condEncodable cond
  | .crc32cwA1 cond _ _ _ _ _ _ => condEncodable cond
  | .crc32cbT1 _ _ _ => true
  | .crc32chT1 _ _ _ => true
  | .crc32cwT1 _ _ _ _ => true
  | .crc32cbA64 _ _ _ _ => true
  | .crc32chA64 _ _ _ _ => true
  | .crc32cwA64 _ _ _ _ => true
  | .crc32cxA64 _ _ _ _ => true

end Sys2Proof
end

