-- ==== Sys2Proof/Decode.lean ====
section
/-! DEFINITION. Decoding, total on every word of every view and refusing by name, and the encoder, both written from the
diagrams of spec/30_encoding.md (R51, R54, R56) and spec/42_a64_crc32c_named_in_title.md (R102). -/

namespace Sys2Proof

/-- Why a word gets no instruction. -/
inductive DecodeError where
  /-- The word matches no row the configuration admits (spec/30_encoding.md R64). -/
  | notShown
  /-- Fewer bytes are left than one instruction has (every form in scope has four, R50). -/
  | truncated
  deriving DecidableEq, Repr

/-! ### Byte order (spec/20_memory.md R42) -/

/-- An A64 or A32 word from its four bytes, lowest address first; a T32 pair `hw1:hw2`, each halfword little-endian, the
first halfword at the lower address (R42). -/
def wordOfBytes (v : View) (b0 b1 b2 b3 : Byte) : Word :=
  match v with
  | .a64 => b3 ++ b2 ++ b1 ++ b0
  | .a32 => b3 ++ b2 ++ b1 ++ b0
  | .t32 => b1 ++ b0 ++ b3 ++ b2

/-- Byte `n` (0 to 3, in address order) of the word `w` as memory holds it (R42). -/
def byteOfWord (v : View) (w : Word) (n : Nat) : Byte :=
  match v with
  | .a64 => w.extractLsb' (8 * n) 8
  | .a32 => w.extractLsb' (8 * n) 8
  | .t32 => w.extractLsb' (8 * ((n + 2) % 4)) 8

/-- The four bytes of a word in address order. -/
def bytesOfWord (v : View) (w : Word) : List Byte :=
  [byteOfWord v w 0, byteOfWord v w 1, byteOfWord v w 2, byteOfWord v w 3]

/-! ### Operand codes -/

/-- `DecodeRegExtend` (spec/00_scope.md R15). -/
def decodeRegExtend (option : BitVec 3) : ExtendType :=
  match option.toNat with
  | 0 => .uxtb
  | 1 => .uxth
  | 2 => .uxtw
  | 3 => .uxtx
  | 4 => .sxtb
  | 5 => .sxth
  | 6 => .sxtw
  | _ => .sxtx

/-- The `option` code of an extension type (R15's table, read from right to left). -/
def encodeRegExtend : ExtendType → BitVec 3
  | .uxtb => 0b000#3
  | .uxth => 0b001#3
  | .uxtw => 0b010#3
  | .uxtx => 0b011#3
  | .sxtb => 0b100#3
  | .sxth => 0b101#3
  | .sxtw => 0b110#3
  | .sxtx => 0b111#3

/-! ### The decoder -/

/-- A64 ADD (extended register) operands of a word whose fixed bits matched (R51, R53). -/
def decodeAddExt (w : Word) : Instr :=
  let rm := w.extractLsb' 16 5
  let option := decodeRegExtend (w.extractLsb' 13 3)
  let imm3 := w.extractLsb' 10 3
  let rn := w.extractLsb' 5 5
  let rd := w.extractLsb' 0 5
  if w.extractLsb' 31 1 = 1#1 then .addExt64 rm option imm3 rn rd else .addExt32 rm option imm3 rn rd

/-- A64 CRC32C operands of a word whose fixed bits matched (R102): `sz` picks the row. -/
def decodeCrcA64 (w : Word) : Instr :=
  let sf := w.extractLsb' 31 1 == 1#1
  let rm := w.extractLsb' 16 5
  let rn := w.extractLsb' 5 5
  let rd := w.extractLsb' 0 5
  match (w.extractLsb' 10 2).toNat with
  | 0 => .crc32cbA64 sf rm rn rd
  | 1 => .crc32chA64 sf rm rn rd
  | 2 => .crc32cwA64 sf rm rn rd
  | _ => .crc32cxA64 sf rm rn rd

/-- The A64 view: bits 30:21 pick the format (R51, R102; the two do not overlap, R67). -/
def decodeA64 (w : Word) : Except DecodeError Instr :=
  if w.extractLsb' 21 10 = 0b0001011001#10 then .ok (decodeAddExt w)
  else if w.extractLsb' 21 10 = 0b0011010110#10 ∧ w.extractLsb' 12 4 = 0b0101#4 then .ok (decodeCrcA64 w)
  else .error .notShown

/-- The A32 view, format A1 (R54, R55): bits 27:23, 20 and 7:4 are fixed and `cond` is not 1111; C and `sz` pick the
row. -/
def decodeA32 (w : Word) : Except DecodeError Instr :=
  let cond := w.extractLsb' 28 4
  let rn := w.extractLsb' 16 4
  let rd := w.extractLsb' 12 4
  let sbzHi := w.extractLsb' 10 2
  let sbz8 := w.extractLsb' 8 1
  let rm := w.extractLsb' 0 4
  if w.extractLsb' 23 5 = 0b00010#5 ∧ w.extractLsb' 20 1 = 0b0#1 ∧ w.extractLsb' 4 4 = 0b0100#4 ∧ cond ≠ 0b1111#4 then
    match (w.extractLsb' 9 1).toNat, (w.extractLsb' 21 2).toNat with
    | 0, 0 => .ok (.crc32bA1 cond rn rd sbzHi sbz8 rm)
    | 0, 1 => .ok (.crc32hA1 cond rn rd sbzHi sbz8 rm)
    | 0, 2 => .ok (.crc32wA1 cond false rn rd sbzHi sbz8 rm)
    | 0, _ => .ok (.crc32wA1 cond true rn rd sbzHi sbz8 rm)
    | _, 0 => .ok (.crc32cbA1 cond rn rd sbzHi sbz8 rm)
    | _, 1 => .ok (.crc32chA1 cond rn rd sbzHi sbz8 rm)
    | _, 2 => .ok (.crc32cwA1 cond false rn rd sbzHi sbz8 rm)
    | _, _ => .ok (.crc32cwA1 cond true rn rd sbzHi sbz8 rm)
  else .error .notShown

/-- The T32 view, format T1 on `hw1:hw2` (R56, R57): `hw1` bits 15:5 without C, `hw2` bits 15:12 and 7:6 are fixed; C and
`sz` pick the row. -/
def decodeT32 (w : Word) : Except DecodeError Instr :=
  let rn := w.extractLsb' 16 4
  let rd := w.extractLsb' 8 4
  let rm := w.extractLsb' 0 4
  if w.extractLsb' 21 11 = 0b11111010110#11 ∧ w.extractLsb' 12 4 = 0b1111#4 ∧ w.extractLsb' 6 2 = 0b10#2 then
    match (w.extractLsb' 20 1).toNat, (w.extractLsb' 4 2).toNat with
    | 0, 0 => .ok (.crc32bT1 rn rd rm)
    | 0, 1 => .ok (.crc32hT1 rn rd rm)
    | 0, 2 => .ok (.crc32wT1 rn rd false rm)
    | 0, _ => .ok (.crc32wT1 rn rd true rm)
    | _, 0 => .ok (.crc32cbT1 rn rd rm)
    | _, 1 => .ok (.crc32chT1 rn rd rm)
    | _, 2 => .ok (.crc32cwT1 rn rd false rm)
    | _, _ => .ok (.crc32cwT1 rn rd true rm)
  else .error .notShown

/-- The row a word of a view stands for, before the admission switches are asked (R52, R55, R57, R102). -/
def decodeWord (v : View) (w : Word) : Except DecodeError Instr :=
  match v with
  | .a64 => decodeA64 w
  | .a32 => decodeA32 w
  | .t32 => decodeT32 w

/-- One of the four A64 rows the main title names (R104 to R107). -/
def Instr.isTitleRow : Instr → Bool
  | .crc32cbA64 _ _ _ _ | .crc32chA64 _ _ _ _ | .crc32cwA64 _ _ _ _ | .crc32cxA64 _ _ _ _ => true
  | .addExt32 _ _ _ _ _ | .addExt64 _ _ _ _ _ => false
  | .crc32bA1 _ _ _ _ _ _ | .crc32hA1 _ _ _ _ _ _ | .crc32wA1 _ _ _ _ _ _ _ => false
  | .crc32bT1 _ _ _ | .crc32hT1 _ _ _ | .crc32wT1 _ _ _ _ => false
  | .crc32cbA1 _ _ _ _ _ _ | .crc32chA1 _ _ _ _ _ _ | .crc32cwA1 _ _ _ _ _ _ _ => false
  | .crc32cbT1 _ _ _ | .crc32chT1 _ _ _ | .crc32cwT1 _ _ _ _ => false

/-- One of the six AArch32 rows with C = 1 (R92 to R97). -/
def Instr.isCOneRow : Instr → Bool
  | .crc32cbA1 _ _ _ _ _ _ | .crc32chA1 _ _ _ _ _ _ | .crc32cwA1 _ _ _ _ _ _ _ => true
  | .crc32cbT1 _ _ _ | .crc32chT1 _ _ _ | .crc32cwT1 _ _ _ _ => true
  | .addExt32 _ _ _ _ _ | .addExt64 _ _ _ _ _ => false
  | .crc32bA1 _ _ _ _ _ _ | .crc32hA1 _ _ _ _ _ _ | .crc32wA1 _ _ _ _ _ _ _ => false
  | .crc32bT1 _ _ _ | .crc32hT1 _ _ _ | .crc32wT1 _ _ _ _ => false
  | .crc32cbA64 _ _ _ _ | .crc32chA64 _ _ _ _ | .crc32cwA64 _ _ _ _ | .crc32cxA64 _ _ _ _ => false

/-- Whether the configuration's two switches admit the row (R63, R100). -/
def Instr.admitted (cfg : Config) (i : Instr) : Bool :=
  (!i.isTitleRow || cfg.admitTitleCrc32c) && (!i.isCOneRow || cfg.admitA32Crc32c)

/-- The decoder of a machine: a row the configuration admits, or `notShown` (R64). -/
def decode (cfg : Config) (v : View) (w : Word) : Except DecodeError Instr :=
  match decodeWord v w with
  | .error e => .error e
  | .ok i => if i.admitted cfg then .ok i else .error .notShown

/-- The first instruction of a byte string and the bytes after it (R42, R50). -/
def decodeBytes (v : View) : List Byte → Except DecodeError (Instr × List Byte)
  | b0 :: b1 :: b2 :: b3 :: rest =>
    match decodeWord v (wordOfBytes v b0 b1 b2 b3) with
    | .ok i => .ok (i, rest)
    | .error e => .error e
  | _ => .error .truncated

/-! ### The encoder -/

/-- The view whose words encode the instruction. -/
def Instr.view : Instr → View
  | .addExt32 _ _ _ _ _ | .addExt64 _ _ _ _ _ => .a64
  | .crc32bA1 _ _ _ _ _ _ | .crc32hA1 _ _ _ _ _ _ | .crc32wA1 _ _ _ _ _ _ _ => .a32
  | .crc32bT1 _ _ _ | .crc32hT1 _ _ _ | .crc32wT1 _ _ _ _ => .t32
  | .crc32cbA1 _ _ _ _ _ _ | .crc32chA1 _ _ _ _ _ _ | .crc32cwA1 _ _ _ _ _ _ _ => .a32
  | .crc32cbT1 _ _ _ | .crc32chT1 _ _ _ | .crc32cwT1 _ _ _ _ => .t32
  | .crc32cbA64 _ _ _ _ | .crc32chA64 _ _ _ _ | .crc32cwA64 _ _ _ _ | .crc32cxA64 _ _ _ _ => .a64

/-- R51, bit 31 down to bit 0. -/
def encodeAddExt (sf : BitVec 1) (rm : BitVec 5) (option : ExtendType) (imm3 : BitVec 3) (rn rd : BitVec 5) : Word :=
  sf ++ 0b00#2 ++ 0b01011#5 ++ 0b00#2 ++ 0b1#1 ++ rm ++ encodeRegExtend option ++ imm3 ++ rn ++ rd

/-- R54, bit 31 down to bit 0. -/
def encodeA1 (cond : BitVec 4) (sz : BitVec 2) (rn rd : BitVec 4) (sbzHi : BitVec 2) (c sbz8 : BitVec 1)
    (rm : BitVec 4) : Word :=
  cond ++ 0b00010#5 ++ sz ++ 0b0#1 ++ rn ++ rd ++ sbzHi ++ c ++ sbz8 ++ 0b0100#4 ++ rm

/-- R56, `hw1` bit 15 down to `hw2` bit 0. -/
def encodeT1 (c : BitVec 1) (rn rd : BitVec 4) (sz : BitVec 2) (rm : BitVec 4) : Word :=
  0b111110101#9 ++ 0b10#2 ++ c ++ rn ++ 0b1111#4 ++ rd ++ 0b10#2 ++ sz ++ rm

/-- R102, bit 31 down to bit 0. -/
def encodeCrcA64 (sf : Bool) (rm : BitVec 5) (sz : BitVec 2) (rn rd : BitVec 5) : Word :=
  BitVec.ofBool sf ++ 0b00#2 ++ 0b11010110#8 ++ rm ++ 0b010#3 ++ 0b1#1 ++ sz ++ rn ++ rd

/-- The `sz` field of the rows whose size is 32, or of their `size64` form (R58, R114). -/
def szOfWordRow (size64 : Bool) : BitVec 2 := if size64 then 0b11#2 else 0b10#2

/-- The word of an instruction (`hw1:hw2` in the T32 view). -/
def encode : Instr → Word
  | .addExt32 rm option imm3 rn rd => encodeAddExt 0#1 rm option imm3 rn rd
  | .addExt64 rm option imm3 rn rd => encodeAddExt 1#1 rm option imm3 rn rd
  | .crc32bA1 cond rn rd sbzHi sbz8 rm => encodeA1 cond 0b00#2 rn rd sbzHi 0#1 sbz8 rm
  | .crc32hA1 cond rn rd sbzHi sbz8 rm => encodeA1 cond 0b01#2 rn rd sbzHi 0#1 sbz8 rm
  | .crc32wA1 cond size64 rn rd sbzHi sbz8 rm => encodeA1 cond (szOfWordRow size64) rn rd sbzHi 0#1 sbz8 rm
  | .crc32bT1 rn rd rm => encodeT1 0#1 rn rd 0b00#2 rm
  | .crc32hT1 rn rd rm => encodeT1 0#1 rn rd 0b01#2 rm
  | .crc32wT1 rn rd size64 rm => encodeT1 0#1 rn rd (szOfWordRow size64) rm
  | .crc32cbA1 cond rn rd sbzHi sbz8 rm => encodeA1 cond 0b00#2 rn rd sbzHi 1#1 sbz8 rm
  | .crc32chA1 cond rn rd sbzHi sbz8 rm => encodeA1 cond 0b01#2 rn rd sbzHi 1#1 sbz8 rm
  | .crc32cwA1 cond size64 rn rd sbzHi sbz8 rm => encodeA1 cond (szOfWordRow size64) rn rd sbzHi 1#1 sbz8 rm
  | .crc32cbT1 rn rd rm => encodeT1 1#1 rn rd 0b00#2 rm
  | .crc32chT1 rn rd rm => encodeT1 1#1 rn rd 0b01#2 rm
  | .crc32cwT1 rn rd size64 rm => encodeT1 1#1 rn rd (szOfWordRow size64) rm
  | .crc32cbA64 sf rm rn rd => encodeCrcA64 sf rm 0b00#2 rn rd
  | .crc32chA64 sf rm rn rd => encodeCrcA64 sf rm 0b01#2 rn rd
  | .crc32cwA64 sf rm rn rd => encodeCrcA64 sf rm 0b10#2 rn rd
  | .crc32cxA64 sf rm rn rd => encodeCrcA64 sf rm 0b11#2 rn rd

/-! ### The table's masks (spec/opcode_table.json; R52, R55, R57, R102)

Written from the spec's hexadecimal constants, apart from the diagrams above, so that each checks the other. -/

/-- The mask of the page's pattern for the row: `pattern_mask` of the A1 rows, `mask` of the others, without bit 31 in the
A64 CRC rows, whose mismatching `sf` R103 takes in. -/
def Instr.patternMask : Instr → Word
  | .addExt32 _ _ _ _ _ | .addExt64 _ _ _ _ _ => 0xFFE00000#32
  | .crc32bA1 _ _ _ _ _ _ | .crc32hA1 _ _ _ _ _ _ | .crc32wA1 _ _ _ _ _ _ _ => 0x0FF002F0#32
  | .crc32cbA1 _ _ _ _ _ _ | .crc32chA1 _ _ _ _ _ _ | .crc32cwA1 _ _ _ _ _ _ _ => 0x0FF002F0#32
  | .crc32bT1 _ _ _ | .crc32hT1 _ _ _ | .crc32wT1 _ _ _ _ => 0xFFF0F0F0#32
  | .crc32cbT1 _ _ _ | .crc32chT1 _ _ _ | .crc32cwT1 _ _ _ _ => 0xFFF0F0F0#32
  | .crc32cbA64 _ _ _ _ | .crc32chA64 _ _ _ _ | .crc32cwA64 _ _ _ _ | .crc32cxA64 _ _ _ _ => 0x7FE0FC00#32

/-- What the masked word equals (for the `size64` forms, the "(none)" rows of R55 and R57). -/
def Instr.patternMatch : Instr → Word
  | .addExt32 _ _ _ _ _ => 0x0B200000#32
  | .addExt64 _ _ _ _ _ => 0x8B200000#32
  | .crc32bA1 _ _ _ _ _ _ => 0x01000040#32
  | .crc32hA1 _ _ _ _ _ _ => 0x01200040#32
  | .crc32wA1 _ size64 _ _ _ _ _ => if size64 then 0x01600040#32 else 0x01400040#32
  | .crc32bT1 _ _ _ => 0xFAC0F080#32
  | .crc32hT1 _ _ _ => 0xFAC0F090#32
  | .crc32wT1 _ _ size64 _ => if size64 then 0xFAC0F0B0#32 else 0xFAC0F0A0#32
  | .crc32cbA1 _ _ _ _ _ _ => 0x01000240#32
  | .crc32chA1 _ _ _ _ _ _ => 0x01200240#32
  | .crc32cwA1 _ size64 _ _ _ _ _ => if size64 then 0x01600240#32 else 0x01400240#32
  | .crc32cbT1 _ _ _ => 0xFAD0F080#32
  | .crc32chT1 _ _ _ => 0xFAD0F090#32
  | .crc32cwT1 _ _ size64 _ => if size64 then 0xFAD0F0B0#32 else 0xFAD0F0A0#32
  | .crc32cbA64 _ _ _ _ => 0x1AC05000#32
  | .crc32chA64 _ _ _ _ => 0x1AC05400#32
  | .crc32cwA64 _ _ _ _ => 0x1AC05800#32
  | .crc32cxA64 _ _ _ _ => 0x1AC05C00#32

/-! ### A word as the opcode table numbers it -/

/-- The instruction the decoder of view `v` reads from the bytes of `w` laid out as that view stores them. -/
def decodeStored (v : View) (w : Word) : Option Instr :=
  match decodeBytes v (bytesOfWord v w) with
  | .ok (i, _) => some i
  | .error _ => none

/-- The instruction whose bits are `w`, numbered as spec/opcode_table.json numbers them (for T32, `hw1` in bits 31:16, as
the table's own rows say). No word is an instruction of two views, so the order of the three does not matter. -/
def decodeTableWord (nbits w : Nat) : Option Instr :=
  let word : Word := BitVec.ofNat 32 (w % 2 ^ nbits)
  (decodeStored .a64 word).orElse fun _ =>
    (decodeStored .a32 word).orElse fun _ => decodeStored .t32 word

end Sys2Proof
end

