-- ==== Sys2Proof/Machine/State.lean ====
section
/-! DEFINITION. The machine's state as plain data, why a step stops, and the state a run starts from
(spec/10_state.md, spec/20_memory.md R40, spec/60_exceptions.md R126). -/

namespace Sys2Proof.Machine

/-- What an UNPREDICTABLE fault says of its cause: the `info` of the decode texts (spec/30_encoding.md R58). -/
inductive UnpredictableInfo where
  /-- `Unpredictable(InIT)`: T1 in an IT block -/
  | inIt
  /-- The "(0)" bits of A1, the spec's own check (R62, D18); it gives no `info`, and the name is the model's (log 11) -/
  | sbz
  /-- `Unpredictable(R15)`: a register number is 15 -/
  | r15
  /-- `ConstrainedUnpredictable(Size64)` under the default treatment (R114) -/
  | size64
  /-- `ConstrainedUnpredictable(Cond)` under the default treatment (R115) -/
  | cond
  deriving DecidableEq, Repr

/-- The two faults (R126). Both are raised at decode: nothing is written and `pc` does not advance (R110, R112, R119). What
each carries is for diagnostics only: no step reads it. -/
inductive Fault where
  /-- Raised by a meaning for the causes of spec/60_exceptions.md R111. SAFE: on hardware a handler might go on (R110).
  Its `info` is the instruction word (R111), `hw1:hw2` in the T32 view (R9). -/
  | undefined (info : Word)
  /-- Raised by a meaning for the causes of R113. SAFE: no behaviour is ever picked (R112). -/
  | unpredictable (info : UnpredictableInfo)
  deriving DecidableEq, Repr

/-- Why the model gives a step no meaning, and the end of a run, at which no step exists. -/
inductive Refusal where
  /-- Raised by `step`: the word matches no row the configuration admits (spec/30_encoding.md R64, R125). SAFE. -/
  | notShown
  /-- Raised by `step`: the instruction at `pc` is not in the program text, or `pc` is misaligned, and `pc` is not the
  end-of-run address (spec/20_memory.md R41, R45, R125). SAFE. -/
  | fetchOutsideText
  /-- Raised by `step`: `pc` is one past the program text, where the run has ended successfully and no step exists
  (spec/70_reset_and_hazards.md R133, U14). SAFE: the state is final, and the model says nothing of what follows. -/
  | endOfRun
  /-- Raised by `step`: the launch asks for the A32 or T32 view of a PE without AArch32 (R6, R131, U13). SAFE. -/
  | viewAbsent
  /-- Raised by `step`: the program text reaches the top of the address space, so the launch is refused (R45, C12).
  SAFE: `pc` never wraps. -/
  | textReachesTop
  /-- Raised by `exec` for an instruction without a meaning; no arm of this model raises it. SAFE. -/
  | notModelled (mnemonic : String)
  deriving DecidableEq, Repr

/-- The sticky outcome mark (R126). -/
inductive Mark where
  | running
  | faulted (f : Fault)
  | refused (r : Refusal)
  deriving DecidableEq, Repr

/-- The flags N, Z, C, V of PSTATE (R26) or CPSR (R31). -/
structure Flags where
  n : Bool
  z : Bool
  c : Bool
  v : Bool
  deriving DecidableEq, Repr

/-- The AArch64 record (R21 to R27). -/
structure A64State where
  /-- `x[0]` to `x[30]` (R21); number 31 has no storage (R22). -/
  x : Vector DWord 31
  /-- The stack pointer (R23). -/
  sp : DWord
  /-- The address of the instruction being executed in the A64 view (R25). -/
  pc : DWord
  /-- PSTATE.N, Z, C, V (R26). -/
  flags : Flags
  /-- PSTATE.DIT (R27): no step reads it. -/
  dit : Bool
  deriving DecidableEq, Repr

/-- The AArch32 record (R28 to R34). -/
structure A32State where
  /-- `r[0]` to `r[14]` (R28); the model has no `r[15]` (R29). -/
  r : Vector Word 15
  /-- The address of the instruction being executed in the A32 and T32 views (R30). -/
  pc : Word
  /-- CPSR N, Z, C, V (R31). -/
  flags : Flags
  /-- CPSR.DIT (R33): no step reads it. -/
  dit : Bool
  /-- `in_it_block` (R34), the value `InITBlock()` returns in the T32 view (R19). -/
  inItBlock : Bool
  deriving DecidableEq, Repr

/-- The program text as bytes: (address, byte) pairs, addresses strictly rising (`Memory.wf`). An unlisted address reads
as nothing (log 4). -/
abbrev Memory := List Host.Cell

/-- The state of a machine: the launch parameters no step changes (R6, R20, R131), the outcome mark (R126), the program
text (R40, R45), and the two records, of which a run uses one (R20, R39). -/
structure State where
  /-- `VIEW` (R6, R32). -/
  view : View
  /-- The configuration (R6). -/
  cfg : Config
  /-- The sticky outcome mark (R126). -/
  mark : Mark
  /-- The MODEL's own field (log 5): the index of the next free choice of a varying `CU_SIZE64` or `CU_COND` (D8). -/
  draws : Nat
  /-- The bytes of the program text (R40, R42). -/
  mem : Memory
  /-- `base`: the first address of the program text (R45). -/
  textBase : Nat
  /-- `k`: the program text is `[base, base + 4*k)` (R45). -/
  textWords : Nat
  /-- The AArch64 record. -/
  a64 : A64State
  /-- The AArch32 record. -/
  a32 : A32State
  deriving DecidableEq, Repr

/-- All four flags clear. -/
def Flags.clear : Flags := { n := false, z := false, c := false, v := false }

/-- The machine with nothing loaded. The spec gives no reset value (R38, R130): the mark, `in_it_block`, the two switches
and the two default treatments are the spec's defaults (R6, R38); every other value is the model's (logs 1, 2, 3). -/
def State.reset : State where
  view := .a64
  cfg :=
    { haveAArch32 := true
      haveCrc := true
      admitTitleCrc32c := false
      admitA32Crc32c := false
      cuSize64 := .defaultTreatment
      cuCond := .defaultTreatment }
  mark := .running
  draws := 0
  mem := []
  textBase := 0
  textWords := 0
  a64 := { x := Vector.replicate 31 0#64, sp := 0#64, pc := 0#64, flags := Flags.clear, dit := false }
  a32 :=
    { r := Vector.replicate 15 0#32, pc := 0#32, flags := Flags.clear, dit := false, inItBlock := false }

end Sys2Proof.Machine
end

