-- ==== Sys2Proof/Machine/Ops.lean ====
section
/-! DEFINITION. The named operations over registers, the program counters, the program text and the outcome mark.

There is NO exception entry and NO exception return here: the spec describes neither ("The model has no trap entry",
spec/60_exceptions.md R119; R120). What an UNDEFINED or UNPREDICTABLE instruction does is one operation, `raise`. -/

namespace Sys2Proof.Machine

/-- The outcome of a step of this machine. -/
abbrev Result := Host.Outcome State Fault Refusal

/-- Why a decode check stops an instruction (R58, R110, R112). -/
inductive Cause where
  | undefined
  | unpredictable (info : UnpredictableInfo)
  deriving DecidableEq, Repr

/-- `raise Undefined(word)` and `raise Unpredictable(info)` (R10, R110, R111, R112): the terminal outcome, with nothing
written; `word` is the instruction's own word. -/
def raise (word : Word) (c : Cause) : Result :=
  match c with
  | .undefined => .fault (.undefined word)
  | .unpredictable info => .fault (.unpredictable info)

/-! ### AArch64 registers (spec/00_scope.md R12) -/

/-- `X_read(n, width)`: number 31 reads zero; a narrower width takes the low bits. -/
def State.xRead (s : State) (n : BitVec 5) (width : Nat) : BitVec width :=
  if h : n.toNat < 31 then (s.a64.x[n.toNat]).setWidth width else 0#width

/-- `X_write(n, width, v)`: the value is zero-extended to 64 bits; a write of number 31 is discarded. -/
def State.xWrite (s : State) (n : BitVec 5) (width : Nat) (v : BitVec width) : State :=
  if h : n.toNat < 31 then { s with a64 := { s.a64 with x := s.a64.x.set n.toNat (v.setWidth 64) } } else s

/-- `SP_read(width)`. -/
def State.spRead (s : State) (width : Nat) : BitVec width := s.a64.sp.setWidth width

/-- `SP_write(width, v)`: the value is zero-extended to 64 bits. -/
def State.spWrite (s : State) (width : Nat) (v : BitVec width) : State :=
  { s with a64 := { s.a64 with sp := v.setWidth 64 } }

/-- `PSTATE.<N,Z,C,V> = nzcv` (R11). -/
def State.setFlags64 (s : State) (f : Flags) : State := { s with a64 := { s.a64 with flags := f } }

/-- `pc <- pc + 4` in the A64 view (spec/10_state.md R25). -/
def State.advance64 (s : State) : State := { s with a64 := { s.a64 with pc := s.a64.pc + 4#64 } }

/-! ### AArch32 registers (R13): there is no number 15 to read or write -/

/-- `R_read(n)`. -/
def State.rRead (s : State) (n : Fin 15) : Word := s.a32.r[n]

/-- `R_write(n, v)`. -/
def State.rWrite (s : State) (n : Fin 15) (v : Word) : State :=
  { s with a32 := { s.a32 with r := s.a32.r.set n v } }

/-- `pc <- pc + 4` in the A32 and T32 views (spec/10_state.md R30). -/
def State.advance32 (s : State) : State := { s with a32 := { s.a32 with pc := s.a32.pc + 4#32 } }

/-- Passes one index of the free choices when `used` (log 5). -/
def State.passDraw (s : State) (used : Bool) : State :=
  { s with draws := if used then s.draws + 1 else s.draws }

/-! ### The program text (spec/20_memory.md R40, R45) -/

/-- The byte listed at an address, or nothing. -/
def Memory.read : Memory → Nat → Option Byte
  | [], _ => none
  | (a, b) :: rest, addr => if a = addr then some b else Memory.read rest addr

/-- Lists a byte at an address, in its place by address. Only loading a program text uses it: no instruction stores. -/
def Memory.write : Memory → Nat → Byte → Memory
  | [], addr, v => [(addr, v)]
  | (a, b) :: rest, addr, v =>
    if addr < a then (addr, v) :: (a, b) :: rest
    else if addr = a then (addr, v) :: rest
    else (a, b) :: Memory.write rest addr v

/-- Lists bytes at consecutive addresses. -/
def Memory.writeList : Memory → Nat → List Byte → Memory
  | m, _, [] => m
  | m, addr, v :: rest => Memory.writeList (Memory.write m addr v) (addr + 1) rest

/-- Every address of the list is above `low`, and the addresses rise strictly. -/
def Memory.risesFrom : Nat → Memory → Bool
  | _, [] => true
  | low, (a, _) :: rest => decide (low < a) && Memory.risesFrom a rest

/-- The canonical form: addresses strictly rising. (Nothing listed can equal what an unlisted address reads as: that is
no byte at all, log 4.) -/
def Memory.wf : Memory → Bool
  | [] => true
  | (a, _) :: rest => Memory.risesFrom a rest

/-- The byte of the program text at an address: listed, and inside `[base, base + 4*k)` (R45). -/
def State.textByte (s : State) (addr : Nat) : Option Byte :=
  if s.textBase ≤ addr ∧ addr < s.textBase + 4 * s.textWords then s.mem.read addr else none

/-- The address one past the program text (R45, R133). -/
def State.textEnd (s : State) : Nat := s.textBase + 4 * s.textWords

/-! ### The view's program counter and address space -/

/-- The program counter of the view the run uses (R25, R30). -/
def State.pcOf (s : State) : Nat :=
  match s.view with
  | .a64 => s.a64.pc.toNat
  | .a32 => s.a32.pc.toNat
  | .t32 => s.a32.pc.toNat

/-- The size of the view's address space (R40). -/
def View.addressLimit : View → Nat
  | .a64 => 2 ^ 64
  | .a32 => 2 ^ 32
  | .t32 => 2 ^ 32

/-- What `pc` must be a multiple of (R43). -/
def View.fetchAlign : View → Nat
  | .a64 => 4
  | .a32 => 4
  | .t32 => 2

/-- The view exists on this PE (R6: "if false the A32 and T32 views do not exist"). -/
def State.viewExists (s : State) : Bool :=
  match s.view with
  | .a64 => true
  | .a32 => s.cfg.haveAArch32
  | .t32 => s.cfg.haveAArch32

/-- Why the launch itself is refused, if it is (R45, R131, U13). -/
def State.launchRefusal (s : State) : Option Refusal :=
  if s.viewExists = false then some .viewAbsent
  else if View.addressLimit s.view ≤ s.textEnd then some .textReachesTop
  else none

/-! ### The outcome mark (R126) -/

/-- The state after a step with the given outcome: the mark records a fault or a refusal and nothing else changes; at the
end of a run no step exists, so the state stays as it is (R133). -/
def State.settle (s : State) (o : Result) : State :=
  match o with
  | .next t => t
  | .fault f => { s with mark := .faulted f }
  | .refused .endOfRun => s
  | .refused r => { s with mark := .refused r }

/-- The run has ended successfully: the mark is `Running` and `pc` is one past the text (R133). -/
def State.ended (s : State) : Bool := decide (s.mark = .running) && decide (s.pcOf = s.textEnd)

end Sys2Proof.Machine
end

