-- ==== Sys2Proof/Machine/Flags.lean ====
section
/-! DEFINITION. Every flag computation the spec gives: `AddWithCarry` (spec/00_scope.md R17) and `ConditionPassed`
(spec/41_a32_t32_crc32.md R81). -/

namespace Sys2Proof.Machine

/-- `AddWithCarry(x, y, carry_in)` (R17): the exact sums first, the narrowed result and the four flags from them. -/
def addWithCarry {n : Nat} (x y : BitVec n) (carryIn : Bool) : BitVec n × Flags :=
  let usum : Nat := x.toNat + y.toNat + carryIn.toNat
  let ssum : Int := x.toInt + y.toInt + carryIn.toNat
  let result : BitVec n := BitVec.ofNat n usum
  (result,
    { n := result.msb
      z := result == 0#n
      c := result.toNat != usum
      v := result.toInt != ssum })

/-- The condition table of R81, with 1110 always passing; 1111 has no row (it is not in the A1 encoding, R63). -/
def conditionHolds (cond : BitVec 4) (f : Flags) : Option Bool :=
  match cond.toNat with
  | 0 => some f.z
  | 1 => some (!f.z)
  | 2 => some f.c
  | 3 => some (!f.c)
  | 4 => some f.n
  | 5 => some (!f.n)
  | 6 => some f.v
  | 7 => some (!f.v)
  | 8 => some (f.c && !f.z)
  | 9 => some (!f.c || f.z)
  | 10 => some (f.n == f.v)
  | 11 => some (f.n != f.v)
  | 12 => some (!f.z && f.n == f.v)
  | 13 => some (f.z || f.n != f.v)
  | 14 => some true
  | _ => none

end Sys2Proof.Machine
end

