-- ==== Sys2Proof/Machine/Operands.lean ====
section
/-! DEFINITION. The operand forms: the extended register of ADD (spec/00_scope.md R15, R16) and the decode checks and
operands of the CRC instructions (spec/30_encoding.md R58, spec/60_exceptions.md R114 to R116). -/

namespace Sys2Proof.Machine

/-! ### The extended register -/

/-- Column "unsigned" of R15's table. -/
def extendUnsigned : ExtendType → Bool
  | .uxtb => true
  | .uxth => true
  | .uxtw => true
  | .uxtx => true
  | .sxtb => false
  | .sxth => false
  | .sxtw => false
  | .sxtx => false

/-- Column "len" of R15's table. -/
def extendLen : ExtendType → Nat
  | .uxtb => 8
  | .uxth => 16
  | .uxtw => 32
  | .uxtx => 64
  | .sxtb => 8
  | .sxth => 16
  | .sxtw => 32
  | .sxtx => 64

/-- The value part of `ExtendReg` (R16): the low `min(len, N)` bits, extended to N, then shifted left within N bits. -/
def extendValue {n : Nat} (val : BitVec n) (t : ExtendType) (shift : Nat) : BitVec n :=
  let low : BitVec (min (extendLen t) n) := val.setWidth (min (extendLen t) n)
  let ext : BitVec n := if extendUnsigned t then low.setWidth n else low.signExtend n
  ext <<< shift

/-- `ExtendReg(reg, exttype, shift)` at width N (R16); register 31 reads zero. -/
def State.extendReg (s : State) (reg : BitVec 5) (t : ExtendType) (shift n : Nat) : BitVec n :=
  extendValue (s.xRead reg n) t shift

/-- A register operand whose number 31 is the stack pointer (R22, R71: "if n == 31 then SP[] else X[n]"). -/
def State.xspRead (s : State) (n : BitVec 5) (width : Nat) : BitVec width :=
  if n = 31#5 then s.spRead width else s.xRead n width

/-! ### Decode checks of the CRC instructions -/

/-- What the decode checks of a CRC instruction come to: go on with a value, only advance `pc` (R124), or stop (R110,
R112). -/
inductive Check (α : Type) where
  | pass (a : α)
  | nop
  | stop (c : Cause)
  deriving DecidableEq, Repr

/-- One check after another: the first that does not pass decides (R116). -/
def Check.andThen {α β : Type} (c : Check α) (k : α → Check β) : Check β :=
  match c with
  | .pass a => k a
  | .nop => .nop
  | .stop c => .stop c

/-- The operands of an AArch32 CRC instruction after decode: `d`, `n`, `m` and `size` (R58). -/
structure CrcOperands where
  d : Fin 15
  n : Fin 15
  m : Fin 15
  size : Nat
  deriving DecidableEq, Repr

/-- `if InITBlock() then UNPREDICTABLE` (R83). -/
def State.checkItBlock (s : State) : Check Unit :=
  if s.a32.inItBlock then .stop (.unpredictable .inIt) else .pass ()

/-- `if ! HaveCRCExt() then UNDEFINED` (R82, R83, R103). -/
def State.checkCrcExt (s : State) : Check Unit :=
  if s.cfg.haveCrc then .pass () else .stop .undefined

/-- The "(0)" bits of A1 (R62, D18). -/
def checkSbz (sbzHi : BitVec 2) (sbz8 : BitVec 1) : Check Unit :=
  if sbzHi = 0#2 ∧ sbz8 = 0#1 then .pass () else .stop (.unpredictable .sbz)

/-- A register number the model has, 0 to 14 (R13, R29). -/
def regNumber (n : BitVec 4) : Option (Fin 15) :=
  if h : n.toNat < 15 then some ⟨n.toNat, h⟩ else none

/-- `if d == 15 || n == 15 || m == 15 then UNPREDICTABLE` (R82, R83). -/
def checkRegs (rd rn rm : BitVec 4) : Check (Fin 15 × Fin 15 × Fin 15) :=
  match regNumber rd, regNumber rn, regNumber rm with
  | some d, some n, some m => .pass (d, n, m)
  | _, _, _ => .stop (.unpredictable .r15)

/-- `size = 8 << UInt(sz)` (R58). -/
def sizeOfSz (sz : BitVec 2) : Nat := 8 * 2 ^ sz.toNat

/-- The behaviour in force for `size == 64`, or none under the default treatment (R114). -/
def State.size64Choice (s : State) : Option Size64Behaviour :=
  match s.cfg.cuSize64 with
  | .defaultTreatment => none
  | .always b => some b
  | .varying => some (Config.freeSize64 s.draws)

/-- The behaviour in force for `cond != '1110'`, or none under the default treatment (R115). -/
def State.condChoice (s : State) : Option CondBehaviour :=
  match s.cfg.cuCond with
  | .defaultTreatment => none
  | .always b => some b
  | .varying => some (Config.freeCond s.draws)

/-- `if size == 64 then UNPREDICTABLE`, narrowed by R114. -/
def State.checkSize (s : State) (sz : BitVec 2) : Check Nat :=
  if sizeOfSz sz = 64 then
    match s.size64Choice with
    | none => .stop (.unpredictable .size64)
    | some .undefined => .stop .undefined
    | some .nop => .nop
    | some .size32 => .pass 32
  else .pass (sizeOfSz sz)

/-- `if cond != '1110' then UNPREDICTABLE`, narrowed by R115; a failed condition only advances `pc` (R81). -/
def State.checkCond (s : State) (cond : BitVec 4) : Check Unit :=
  if cond = 0b1110#4 then .pass ()
  else
    match s.condChoice with
    | none => .stop (.unpredictable .cond)
    | some .undefined => .stop .undefined
    | some .nop => .nop
    | some .unconditional => .pass ()
    | some .conditional =>
      match conditionHolds cond s.a32.flags with
      | some true => .pass ()
      | some false => .nop
      | none => .stop (.unpredictable .cond)

/-- The size check takes a free choice (log 5). -/
def State.drewSize (s : State) (sz : BitVec 2) : Bool := sizeOfSz sz == 64 && s.cfg.cuSize64 == .varying

/-- The condition check, made only when the size check passes, takes a free choice (log 5). -/
def State.drewCond (s : State) (cond : BitVec 4) (sz : BitVec 2) : Bool :=
  match s.checkSize sz with
  | .pass _ => cond != 0b1110#4 && s.cfg.cuCond == .varying
  | .nop => false
  | .stop _ => false

/-- The A1 checks in the order of R116. -/
def State.checksA1 (s : State) (cond : BitVec 4) (sz : BitVec 2) (rn rd : BitVec 4) (sbzHi : BitVec 2)
    (sbz8 : BitVec 1) (rm : BitVec 4) : Check CrcOperands :=
  s.checkCrcExt.andThen fun _ =>
  (checkSbz sbzHi sbz8).andThen fun _ =>
  (checkRegs rd rn rm).andThen fun r =>
  (s.checkSize sz).andThen fun size =>
  (s.checkCond cond).andThen fun _ =>
  .pass { d := r.1, n := r.2.1, m := r.2.2, size := size }

/-- The T1 checks in the order of R116. -/
def State.checksT1 (s : State) (rn rd : BitVec 4) (sz : BitVec 2) (rm : BitVec 4) : Check CrcOperands :=
  s.checkItBlock.andThen fun _ =>
  s.checkCrcExt.andThen fun _ =>
  (checkRegs rd rn rm).andThen fun r =>
  (s.checkSize sz).andThen fun size =>
  .pass { d := r.1, n := r.2.1, m := r.2.2, size := size }

/-- The checks of the A64 CRC rows (R103): the extension, then `sf` against `sz`; what passes is `size`. -/
def State.checksCrcA64 (s : State) (sf : Bool) (sz : BitVec 2) : Check Nat :=
  s.checkCrcExt.andThen fun _ =>
  if sf = true ∧ sz ≠ 0b11#2 then .stop .undefined
  else if sf = false ∧ sz = 0b11#2 then .stop .undefined
  else .pass (sizeOfSz sz)

end Sys2Proof.Machine
end

