-- ==== Sys2Proof/Machine/AddExt.lean ====
section
/-! DEFINITION. A64 ADD (extended register) (spec/40_a64_add_extended_register.md). -/

namespace Sys2Proof.Machine

/-- The Operation of R71 at width N, `sub_op` and `setflags` as the decode gives them: the flags are written only under
`setflags`, and number 31 as destination is the stack pointer unless `setflags`. -/
def addSubExtended (n : Nat) (subOp setflags : Bool) (rm : BitVec 5) (option : ExtendType) (shift : Nat)
    (rn rd : BitVec 5) (s : State) : State :=
  let operand1 : BitVec n := s.xspRead rn n
  let extended : BitVec n := s.extendReg rm option shift n
  let operand2 : BitVec n := if subOp then ~~~extended else extended
  let sum := addWithCarry operand1 operand2 subOp
  let flagged := if setflags then s.setFlags64 sum.2 else s
  if rd = 31#5 ∧ setflags = false then flagged.spWrite n sum.1 else flagged.xWrite rd n sum.1

/-- Decode check (of the instruction whose word is `word`) and Operation of the page, where `op` and `S` are fixed 0 (R53, R72, C5). -/
def addExtended (n : Nat) (word : Word) (rm : BitVec 5) (option : ExtendType) (imm3 : BitVec 3) (rn rd : BitVec 5)
    (s : State) : Result :=
  if imm3.toNat > 4 then raise word .undefined
  else .next (addSubExtended n false false rm option imm3.toNat rn rd s).advance64

/-- ADD (extended register), 32-bit variant (R73). -/
def execAddExt32 (rm : BitVec 5) (option : ExtendType) (imm3 : BitVec 3) (rn rd : BitVec 5) (s : State) : Result :=
  addExtended 32 (encode (.addExt32 rm option imm3 rn rd)) rm option imm3 rn rd s

/-- ADD (extended register), 64-bit variant (R74). -/
def execAddExt64 (rm : BitVec 5) (option : ExtendType) (imm3 : BitVec 3) (rn rd : BitVec 5) (s : State) : Result :=
  addExtended 64 (encode (.addExt64 rm option imm3 rn rd)) rm option imm3 rn rd s

end Sys2Proof.Machine
end

