-- ==== Sys2Proof/Machine/Crc.lean ====
section
/-! DEFINITION. The CRC function of every CRC row (spec/41_a32_t32_crc32.md R84, spec/00_scope.md R18) and its bit-serial
form (R85). -/

namespace Sys2Proof.Machine

/-- `BitReverse(data)` (R18): result bit i is data bit N-1-i. -/
def bitReverse {n : Nat} (data : BitVec n) : BitVec n := data.reverse

/-- The loop of `Poly32Mod2` (R18) from bit `32 + j - 1` down to bit 32: a 1 in bit `32 + j` is cancelled by `poly` lined
up so that its bit 31 meets the bit below. -/
def polyReduce {n : Nat} (poly : Word) : Nat → BitVec n → BitVec n
  | 0, data => data
  | j + 1, data =>
    polyReduce poly j (if data.getLsbD (32 + j) then data ^^^ (poly.setWidth n <<< j) else data)

/-- `Poly32Mod2(data, poly)` (R18), N > 32. -/
def poly32Mod2 {n : Nat} (data : BitVec n) (poly : Word) : Word := (polyReduce poly (n - 32) data).setWidth 32

/-- The polynomial a `crc32c` picks (R84). -/
def crcPoly (crc32c : Bool) : Word := if crc32c then 0x1EDC6F41#32 else 0x04C11DB7#32

/-- `CRC(acc, val, size, crc32c)` (R84). -/
def crc (size : Nat) (acc : Word) (val : BitVec size) (crc32c : Bool) : Word :=
  let tempacc : BitVec (32 + size) := bitReverse acc ++ 0#size
  let tempval : BitVec (32 + size) := (bitReverse val ++ 0#32).cast (Nat.add_comm size 32)
  bitReverse (poly32Mod2 (tempacc ^^^ tempval) (crcPoly crc32c))

/-- `rpoly` of R85. -/
def crcRpoly (crc32c : Bool) : Word := if crc32c then 0x82F63B78#32 else 0xEDB88320#32

/-- One turn of R85's loop: the bit `b` of the data meets bit 0 of the accumulator. -/
def crcSerialStep (crc32c : Bool) (s : Word) (b : Bool) : Word :=
  (s >>> 1) ^^^ (if s.getLsbD 0 != b then crcRpoly crc32c else 0#32)

/-- The first `count` turns of R85's loop, bit 0 of the data first. -/
def crcSerialTurns {size : Nat} (acc : Word) (val : BitVec size) (crc32c : Bool) : Nat → Word
  | 0 => acc
  | i + 1 => crcSerialStep crc32c (crcSerialTurns acc val crc32c i) (val.getLsbD i)

/-- The bit-serial form of `CRC` (R85). No instruction calls it: it is the second account of the same function. -/
def crcSerial (size : Nat) (acc : Word) (val : BitVec size) (crc32c : Bool) : Word :=
  crcSerialTurns acc val crc32c size

end Sys2Proof.Machine
end

