-- ==== Sys2Proof/Machine/CrcA32.lean ====
section
/-! DEFINITION. The AArch32 CRC instructions, encodings A1 and T1 (spec/41_a32_t32_crc32.md). -/

namespace Sys2Proof.Machine

/-- `r[d] <- CRC(r[n], r[m][size-1:0], size, crc32c)` (R84). -/
def State.crcWrite (s : State) (op : CrcOperands) (crc32c : Bool) : State :=
  s.rWrite op.d (crc op.size (s.rRead op.n) ((s.rRead op.m).setWidth op.size) crc32c)

/-- What the checks decided, carried out (R86's common behaviour, R124): `drew` says that a check took a free choice
(log 5), and `word` is the instruction's word, which a fault records (R111). -/
def State.finishCrc (s : State) (word : Word) (crc32c drew : Bool) (c : Check CrcOperands) : Result :=
  match c with
  | .stop c => raise word c
  | .nop => .next (s.passDraw drew).advance32
  | .pass op => .next ((s.crcWrite op crc32c).passDraw drew).advance32

/-- Encoding A1 (R82, R84). -/
def crcA1 (word : Word) (crc32c : Bool) (cond : BitVec 4) (sz : BitVec 2) (rn rd : BitVec 4) (sbzHi : BitVec 2)
    (sbz8 : BitVec 1) (rm : BitVec 4) (s : State) : Result :=
  s.finishCrc word crc32c (s.drewSize sz || s.drewCond cond sz) (s.checksA1 cond sz rn rd sbzHi sbz8 rm)

/-- Encoding T1 (R83, R84). -/
def crcT1 (word : Word) (crc32c : Bool) (rn rd : BitVec 4) (sz : BitVec 2) (rm : BitVec 4) (s : State) : Result :=
  s.finishCrc word crc32c (s.drewSize sz) (s.checksT1 rn rd sz rm)

/-- CRC32B, A1 (R86). -/
def execCrc32bA1 (cond rn rd : BitVec 4) (sbzHi : BitVec 2) (sbz8 : BitVec 1) (rm : BitVec 4) (s : State) : Result :=
  crcA1 (encode (.crc32bA1 cond rn rd sbzHi sbz8 rm)) false cond 0b00#2 rn rd sbzHi sbz8 rm s

/-- CRC32H, A1 (R87). -/
def execCrc32hA1 (cond rn rd : BitVec 4) (sbzHi : BitVec 2) (sbz8 : BitVec 1) (rm : BitVec 4) (s : State) : Result :=
  crcA1 (encode (.crc32hA1 cond rn rd sbzHi sbz8 rm)) false cond 0b01#2 rn rd sbzHi sbz8 rm s

/-- CRC32W, A1 (R88), and the words with `sz` = 11 (R114). -/
def execCrc32wA1 (cond : BitVec 4) (size64 : Bool) (rn rd : BitVec 4) (sbzHi : BitVec 2) (sbz8 : BitVec 1)
    (rm : BitVec 4) (s : State) : Result :=
  crcA1 (encode (.crc32wA1 cond size64 rn rd sbzHi sbz8 rm)) false cond (szOfWordRow size64) rn rd sbzHi sbz8 rm s

/-- CRC32B, T1 (R89). -/
def execCrc32bT1 (rn rd rm : BitVec 4) (s : State) : Result := crcT1 (encode (.crc32bT1 rn rd rm)) false rn rd 0b00#2 rm s

/-- CRC32H, T1 (R90). -/
def execCrc32hT1 (rn rd rm : BitVec 4) (s : State) : Result := crcT1 (encode (.crc32hT1 rn rd rm)) false rn rd 0b01#2 rm s

/-- CRC32W, T1 (R91), and the words with `sz` = 11 (R114). -/
def execCrc32wT1 (rn rd : BitVec 4) (size64 : Bool) (rm : BitVec 4) (s : State) : Result :=
  crcT1 (encode (.crc32wT1 rn rd size64 rm)) false rn rd (szOfWordRow size64) rm s

/-- CRC32CB, A1 with C = 1 (R92). -/
def execCrc32cbA1 (cond rn rd : BitVec 4) (sbzHi : BitVec 2) (sbz8 : BitVec 1) (rm : BitVec 4) (s : State) : Result :=
  crcA1 (encode (.crc32cbA1 cond rn rd sbzHi sbz8 rm)) true cond 0b00#2 rn rd sbzHi sbz8 rm s

/-- CRC32CH, A1 with C = 1 (R93). -/
def execCrc32chA1 (cond rn rd : BitVec 4) (sbzHi : BitVec 2) (sbz8 : BitVec 1) (rm : BitVec 4) (s : State) : Result :=
  crcA1 (encode (.crc32chA1 cond rn rd sbzHi sbz8 rm)) true cond 0b01#2 rn rd sbzHi sbz8 rm s

/-- CRC32CW, A1 with C = 1 (R94), and the words with `sz` = 11 (R114). -/
def execCrc32cwA1 (cond : BitVec 4) (size64 : Bool) (rn rd : BitVec 4) (sbzHi : BitVec 2) (sbz8 : BitVec 1)
    (rm : BitVec 4) (s : State) : Result :=
  crcA1 (encode (.crc32cwA1 cond size64 rn rd sbzHi sbz8 rm)) true cond (szOfWordRow size64) rn rd sbzHi sbz8 rm s

/-- CRC32CB, T1 with C = 1 (R95). -/
def execCrc32cbT1 (rn rd rm : BitVec 4) (s : State) : Result := crcT1 (encode (.crc32cbT1 rn rd rm)) true rn rd 0b00#2 rm s

/-- CRC32CH, T1 with C = 1 (R96). -/
def execCrc32chT1 (rn rd rm : BitVec 4) (s : State) : Result := crcT1 (encode (.crc32chT1 rn rd rm)) true rn rd 0b01#2 rm s

/-- CRC32CW, T1 with C = 1 (R97), and the words with `sz` = 11 (R114). -/
def execCrc32cwT1 (rn rd : BitVec 4) (size64 : Bool) (rm : BitVec 4) (s : State) : Result :=
  crcT1 (encode (.crc32cwT1 rn rd size64 rm)) true rn rd (szOfWordRow size64) rm s

end Sys2Proof.Machine
end

