-- ==== Sys2Proof/Machine/CrcA64.lean ====
section
/-! DEFINITION. The A64 CRC32C instructions the main title names (spec/42_a64_crc32c_named_in_title.md). -/

namespace Sys2Proof.Machine

/-- The width at which `Rm` is read: 64 for CRC32CX, else 32 (R104's common behaviour). -/
def crcDataWidth (size : Nat) : Nat := if size = 64 then 64 else 32

/-- The common behaviour of R104 to R107 after the decode of R103, of the instruction whose word is `word`. -/
def crcA64 (word : Word) (sz : BitVec 2) (sf : Bool) (rm rn rd : BitVec 5) (s : State) : Result :=
  match s.checksCrcA64 sf sz with
  | .stop c => raise word c
  | .nop => .next s.advance64
  | .pass size =>
    let acc : Word := s.xRead rn 32
    let val : BitVec size := (s.xRead rm (crcDataWidth size)).setWidth size
    .next (s.xWrite rd 32 (crc size acc val true)).advance64

/-- CRC32CB (R104). -/
def execCrc32cbA64 (sf : Bool) (rm rn rd : BitVec 5) (s : State) : Result :=
  crcA64 (encode (.crc32cbA64 sf rm rn rd)) 0b00#2 sf rm rn rd s

/-- CRC32CH (R105). -/
def execCrc32chA64 (sf : Bool) (rm rn rd : BitVec 5) (s : State) : Result :=
  crcA64 (encode (.crc32chA64 sf rm rn rd)) 0b01#2 sf rm rn rd s

/-- CRC32CW (R106). -/
def execCrc32cwA64 (sf : Bool) (rm rn rd : BitVec 5) (s : State) : Result :=
  crcA64 (encode (.crc32cwA64 sf rm rn rd)) 0b10#2 sf rm rn rd s

/-- CRC32CX (R107). -/
def execCrc32cxA64 (sf : Bool) (rm rn rd : BitVec 5) (s : State) : Result :=
  crcA64 (encode (.crc32cxA64 sf rm rn rd)) 0b11#2 sf rm rn rd s

end Sys2Proof.Machine
end

