-- ==== Sys2Proof/Machine/Dispatch.lean ====
section
/-! DEFINITION. One arm per row of spec/opcode_table.json. -/

namespace Sys2Proof.Machine

def exec (i : Instr) (s : State) : Host.Outcome State Fault Refusal :=
  match i with
  | .addExt32 rm option imm3 rn rd => Sys2Proof.Machine.execAddExt32 rm option imm3 rn rd s
  | .addExt64 rm option imm3 rn rd => Sys2Proof.Machine.execAddExt64 rm option imm3 rn rd s
  | .crc32bA1 cond rn rd sbzHi sbz8 rm => Sys2Proof.Machine.execCrc32bA1 cond rn rd sbzHi sbz8 rm s
  | .crc32hA1 cond rn rd sbzHi sbz8 rm => Sys2Proof.Machine.execCrc32hA1 cond rn rd sbzHi sbz8 rm s
  | .crc32wA1 cond size64 rn rd sbzHi sbz8 rm => Sys2Proof.Machine.execCrc32wA1 cond size64 rn rd sbzHi sbz8 rm s
  | .crc32bT1 rn rd rm => Sys2Proof.Machine.execCrc32bT1 rn rd rm s
  | .crc32hT1 rn rd rm => Sys2Proof.Machine.execCrc32hT1 rn rd rm s
  | .crc32wT1 rn rd size64 rm => Sys2Proof.Machine.execCrc32wT1 rn rd size64 rm s
  | .crc32cbA1 cond rn rd sbzHi sbz8 rm => Sys2Proof.Machine.execCrc32cbA1 cond rn rd sbzHi sbz8 rm s
  | .crc32chA1 cond rn rd sbzHi sbz8 rm => Sys2Proof.Machine.execCrc32chA1 cond rn rd sbzHi sbz8 rm s
  | .crc32cwA1 cond size64 rn rd sbzHi sbz8 rm => Sys2Proof.Machine.execCrc32cwA1 cond size64 rn rd sbzHi sbz8 rm s
  | .crc32cbT1 rn rd rm => Sys2Proof.Machine.execCrc32cbT1 rn rd rm s
  | .crc32chT1 rn rd rm => Sys2Proof.Machine.execCrc32chT1 rn rd rm s
  | .crc32cwT1 rn rd size64 rm => Sys2Proof.Machine.execCrc32cwT1 rn rd size64 rm s
  | .crc32cbA64 sf rm rn rd => Sys2Proof.Machine.execCrc32cbA64 sf rm rn rd s
  | .crc32chA64 sf rm rn rd => Sys2Proof.Machine.execCrc32chA64 sf rm rn rd s
  | .crc32cwA64 sf rm rn rd => Sys2Proof.Machine.execCrc32cwA64 sf rm rn rd s
  | .crc32cxA64 sf rm rn rd => Sys2Proof.Machine.execCrc32cxA64 sf rm rn rd s

end Sys2Proof.Machine
end

