-- ==== Sys2Proof/Machine/Fetch.lean ====
section
/-! DEFINITION. Fetching the instruction at `pc` (spec/20_memory.md R41, R42, R45) and loading one from outside. -/

namespace Sys2Proof.Machine

/-- `Fetch(pc)` (R41): the word, or pair, at `pc` when `pc` is aligned (R43) and all its four bytes are in the text;
else the outcome of R45: the end of the run one past the text, a refusal anywhere else. -/
def State.fetch (s : State) : Except Refusal Word :=
  let pc := s.pcOf
  if pc % View.fetchAlign s.view = 0 then
    match s.textByte pc, s.textByte (pc + 1), s.textByte (pc + 2), s.textByte (pc + 3) with
    | some b0, some b1, some b2, some b3 => .ok (wordOfBytes s.view b0 b1 b2 b3)
    | _, _, _, _ => if pc = s.textEnd then .error .endOfRun else .error .fetchOutsideText
  else if pc = s.textEnd then .error .endOfRun
  else .error .fetchOutsideText

/-- The launch parameters under which a row is decoded: its view, on a PE that has the view, with the row's own admission
switch on (the table's column "admit"); every other parameter as it is. -/
def State.admitRow (s : State) (i : Instr) : State :=
  { s with
    view := i.view
    cfg :=
      { s.cfg with
        haveAArch32 := s.cfg.haveAArch32 || i.view != .a64
        admitTitleCrc32c := s.cfg.admitTitleCrc32c || i.isTitleRow
        admitA32Crc32c := s.cfg.admitA32Crc32c || i.isCOneRow } }

/-- Puts four bytes at `pc`: in place when the four lie in the program text, else as a text of one instruction. -/
def State.placeAtPc (s : State) (bytes : List Byte) : State :=
  if s.textBase ≤ s.pcOf ∧ s.pcOf + 4 ≤ s.textEnd then { s with mem := s.mem.writeList s.pcOf bytes }
  else { s with mem := Memory.writeList [] s.pcOf bytes, textBase := s.pcOf, textWords := 1 }

/-- Loading one instruction from outside the machine (log 9): the row's launch parameters, its bytes at `pc`, and the mark
`Running` that every launch has (R131). A word that is no row's is placed in the view the state has. -/
def State.loadWord (s : State) (nbits w : Nat) : State :=
  let word : Word := BitVec.ofNat 32 (w % 2 ^ nbits)
  let s' : State :=
    match decodeTableWord nbits w with
    | some i => s.admitRow i
    | none => s
  { s'.placeAtPc (bytesOfWord s'.view word) with mark := .running }

end Sys2Proof.Machine
end

