-- ==== Sys2Proof/Machine/Step.lean ====
section
/-! DEFINITION. One step (spec/60_exceptions.md R126), the state it leaves, and placing an instruction for it. -/

namespace Sys2Proof.Machine

/-- One step of the PE: a marked state has no further step (R126); a refused launch has none (R45, U13); else fetch
(R41), decode (R64), execute. -/
def step (s : State) : Host.Outcome State Fault Refusal :=
  match s.mark with
  | .faulted f => .fault f
  | .refused r => .refused r
  | .running =>
    match s.launchRefusal with
    | some r => .refused r
    | none =>
      match s.fetch with
      | .error r => .refused r
      | .ok w =>
        match decode s.cfg s.view w with
        | .error _ => .refused .notShown
        | .ok i => exec i s

/-- The state after one step, its mark set when the step stops (R126). -/
def State.after (s : State) : State := s.settle (step s)

/-- `s` with the instruction whose bits are `w` placed where `step` fetches next (log 9). -/
def State.withFetchWord (s : State) (nbits w : Nat) : State := s.loadWord nbits w

end Sys2Proof.Machine
end

