-- ==== Sys2Proof/Safety.lean ====
section
/-! DEFINITION. What a launch and a running state must satisfy (spec/70_reset_and_hazards.md R131, R133), in the terms the
statements use. -/

namespace Sys2Proof.Machine

/-- `text_given` (R131): the bytes listed are exactly those of `[base, base + 4*k)`. -/
abbrev State.TextGiven (s : State) : Prop :=
  s.mem.map Prod.fst = List.range' s.textBase (4 * s.textWords)

/-- The state invariant of a run (R43, R45, R131): the view exists, the text is given, aligned and below the top of the
address space, the mark is `Running`, and `pc` is at an instruction of the text or one past it. -/
structure State.RunInv (s : State) : Prop where
  viewExists : s.viewExists = true
  textGiven : s.TextGiven
  belowTop : s.textEnd < View.addressLimit s.view
  baseAligned : s.textBase % View.fetchAlign s.view = 0
  running : s.mark = .running
  pcLow : s.textBase ≤ s.pcOf
  pcHigh : s.pcOf ≤ s.textEnd
  pcAligned : (s.pcOf - s.textBase) % 4 = 0

/-- A launch state (R131): the invariant, with `pc` at the base of the text. -/
structure State.Launch (s : State) : Prop where
  inv : s.RunInv
  pcAtBase : s.pcOf = s.textBase

end Sys2Proof.Machine
end

