-- ==== Sys2Proof/Certificates/Slice0/Obligations.lean ====
section
/-! DEFINITION. The statements about the machine. The helpers before each group say the spec's rule a second time, over the
record fields themselves, so that a statement does not repeat the definition it is about. -/

namespace Sys2Proof.Statements

open Sys2Proof.Machine

/-! ### Helpers: registers read and results written, by the record -/

/-- AArch64 register number `n` as 64 bits; number 31, which has no storage, reads zero (R12, R22). -/
def xReg (s : State) (n : BitVec 5) : DWord := s.a64.x.toList.getD n.toNat 0#64

/-- The same for a field in which 31 is the stack pointer (R22). -/
def xspReg (s : State) (n : BitVec 5) : DWord := if n = 31#5 then s.a64.sp else xReg s n

/-- AArch32 register number `n`, 0 to 14 (R13). -/
def rReg (s : State) (n : BitVec 4) : Word := s.a32.r.toList.getD n.toNat 0#32

/-- A next state changed by `f`, any other outcome as it is. -/
def mapNext (f : State → State) : Result → Result
  | .next t => .next (f t)
  | .fault r => .fault r
  | .refused r => .refused r

/-- The same outcome, an UNDEFINED fault of which records `word` (R111). -/
def recording (word : Word) : Result → Result
  | .fault (.undefined _) => .fault (.undefined word)
  | .fault (.unpredictable info) => .fault (.unpredictable info)
  | .next t => .next t
  | .refused r => .refused r

/-! ### Helpers: ADD (extended register) -/

/-- The table of R73: operand2 before the shift, from the 32-bit value of `Rm`. -/
def addOperand32 (v : Word) : ExtendType → Word
  | .uxtb => (v.extractLsb' 0 8).setWidth 32
  | .uxth => (v.extractLsb' 0 16).setWidth 32
  | .uxtw => v
  | .uxtx => v
  | .sxtb => (v.extractLsb' 0 8).signExtend 32
  | .sxth => (v.extractLsb' 0 16).signExtend 32
  | .sxtw => v
  | .sxtx => v

/-- The table of R74: operand2 before the shift, from the 64-bit value of `Rm`. -/
def addOperand64 (v : DWord) : ExtendType → DWord
  | .uxtb => (v.extractLsb' 0 8).setWidth 64
  | .uxth => (v.extractLsb' 0 16).setWidth 64
  | .uxtw => (v.extractLsb' 0 32).setWidth 64
  | .uxtx => v
  | .sxtb => (v.extractLsb' 0 8).signExtend 64
  | .sxth => (v.extractLsb' 0 16).signExtend 64
  | .sxtw => (v.extractLsb' 0 32).signExtend 64
  | .sxtx => v

/-- The 64-bit value the 32-bit variant writes (R73). -/
def addResult32 (rm : BitVec 5) (option : ExtendType) (imm3 : BitVec 3) (rn : BitVec 5) (s : State) : DWord :=
  ((xspReg s rn).setWidth 32 + (addOperand32 ((xReg s rm).setWidth 32) option <<< imm3.toNat)).setWidth 64

/-- The value the 64-bit variant writes (R74). -/
def addResult64 (rm : BitVec 5) (option : ExtendType) (imm3 : BitVec 3) (rn : BitVec 5) (s : State) : DWord :=
  xspReg s rn + (addOperand64 (xReg s rm) option <<< imm3.toNat)

/-- `s` after an ADD: the value in `x[rd]`, or in `sp` when `rd` is 31, and `pc + 4`; nothing else (R72). -/
def addDone (rd : BitVec 5) (v : DWord) (s : State) : State :=
  { s with
    a64 :=
      { s.a64 with
        x := if rd = 31#5 then s.a64.x else s.a64.x.setIfInBounds rd.toNat v
        sp := if rd = 31#5 then v else s.a64.sp
        pc := s.a64.pc + 4#64 } }

/-! ### Helpers: AArch32 CRC -/

/-- `s` after a completed AArch32 CRC instruction (R84): `r[rd]` and `pc`, nothing else. -/
def crcDone (size : Nat) (crc32c : Bool) (rn rd rm : BitVec 4) (s : State) : State :=
  { s with
    a32 :=
      { s.a32 with
        r := s.a32.r.setIfInBounds rd.toNat (crc size (rReg s rn) ((rReg s rm).setWidth size) crc32c)
        pc := s.a32.pc + 4#32 } }

/-- `s` after an AArch32 instruction that executes as NOP (R124). -/
def nopDone (s : State) : State := { s with a32 := { s.a32 with pc := s.a32.pc + 4#32 } }

/-- `s` with the model's own counter of free choices one further on (log 5). -/
def drawn (s : State) : State := { s with draws := s.draws + 1 }

/-- The condition table of R81, rows 0000 to 1101. -/
def condTable (cond : BitVec 4) (f : Flags) : Bool :=
  [f.z, !f.z, f.c, !f.c, f.n, !f.n, f.v, !f.v, f.c && !f.z, !f.c || f.z, f.n == f.v, f.n != f.v,
    !f.z && (f.n == f.v), f.z || (f.n != f.v)].getD cond.toNat true

/-- What R115 makes of a word with `cond` other than 1110, once a behaviour is settled. -/
def condOutcome (b : CondBehaviour) (word : Word) (size : Nat) (crc32c : Bool) (cond rn rd rm : BitVec 4) (s : State) : Result :=
  match b with
  | .undefined => .fault (.undefined word)
  | .nop => .next (nopDone s)
  | .unconditional => .next (crcDone size crc32c rn rd rm s)
  | .conditional => if condTable cond s.a32.flags then .next (crcDone size crc32c rn rd rm s) else .next (nopDone s)

/-- The common behaviour before R86, column A1, for a size other than 64: the checks in their order, then the effect.
The "(0)" bits are the spec's own check, not the page's (D18, log 11). `word` is the instruction's word (R111); `choice` is the behaviour in force for `cond` other than 1110, none being the default treatment (R115). -/
def a1Common (choice : Option CondBehaviour) (word : Word) (size : Nat) (crc32c : Bool) (cond rn rd : BitVec 4)
    (sbzHi : BitVec 2) (sbz8 : BitVec 1) (rm : BitVec 4) (s : State) : Result :=
  if s.cfg.haveCrc = false then .fault (.undefined word)
  else if sbzHi ≠ 0#2 ∨ sbz8 ≠ 0#1 then .fault (.unpredictable .sbz)
  else if rd = 15#4 ∨ rn = 15#4 ∨ rm = 15#4 then .fault (.unpredictable .r15)
  else if cond = 14#4 then .next (crcDone size crc32c rn rd rm s)
  else
    match choice with
    | none => .fault (.unpredictable .cond)
    | some b => condOutcome b word size crc32c cond rn rd rm s

/-- The common behaviour before R86, column T1, for a size other than 64. -/
def t1Common (word : Word) (size : Nat) (crc32c : Bool) (rn rd rm : BitVec 4) (s : State) : Result :=
  if s.a32.inItBlock = true then .fault (.unpredictable .inIt)
  else if s.cfg.haveCrc = false then .fault (.undefined word)
  else if rd = 15#4 ∨ rn = 15#4 ∨ rm = 15#4 then .fault (.unpredictable .r15)
  else .next (crcDone size crc32c rn rd rm s)

/-- One A1 row: its defined words (R55), where it completes and with what, and every other outcome. -/
def A1Row (pattern : Word) (size : Nat) (crc32c : Bool)
    (row : BitVec 4 → BitVec 4 → BitVec 4 → BitVec 2 → BitVec 1 → BitVec 4 → Instr) : Prop :=
  (∀ w : Word, w &&& 0xFFF00FF0#32 = pattern ↔ ∃ rn rd rm, decodeWord .a32 w = .ok (row 14#4 rn rd 0#2 0#1 rm)) ∧
  (∀ rn rd rm s, s.cfg.haveCrc = true → rd ≠ 15#4 → rn ≠ 15#4 → rm ≠ 15#4 →
    exec (row 14#4 rn rd 0#2 0#1 rm) s = .next (crcDone size crc32c rn rd rm s)) ∧
  (∀ cond rn rd sbzHi sbz8 rm s, cond ≠ 15#4 →
    (s.cfg.cuCond = .defaultTreatment →
      exec (row cond rn rd sbzHi sbz8 rm) s =
        a1Common none (encode (row cond rn rd sbzHi sbz8 rm)) size crc32c cond rn rd sbzHi sbz8 rm s) ∧
    (∀ b, s.cfg.cuCond = .always b →
      exec (row cond rn rd sbzHi sbz8 rm) s =
        a1Common (some b) (encode (row cond rn rd sbzHi sbz8 rm)) size crc32c cond rn rd sbzHi sbz8 rm s))

/-- One T1 row: its words (R57), where it completes and with what, and every other outcome. -/
def T1Row (pattern : Word) (size : Nat) (crc32c : Bool) (row : BitVec 4 → BitVec 4 → BitVec 4 → Instr) : Prop :=
  (∀ w : Word, w &&& 0xFFF0F0F0#32 = pattern ↔ ∃ rn rd rm, decodeWord .t32 w = .ok (row rn rd rm)) ∧
  (∀ rn rd rm s, s.a32.inItBlock = false → s.cfg.haveCrc = true → rd ≠ 15#4 → rn ≠ 15#4 → rm ≠ 15#4 →
    exec (row rn rd rm) s = .next (crcDone size crc32c rn rd rm s)) ∧
  (∀ rn rd rm s, exec (row rn rd rm) s = t1Common (encode (row rn rd rm)) size crc32c rn rd rm s)

/-- What R114 makes of a word with `sz` = 11 that passed the earlier checks, once a behaviour is settled; `run` is the
outcome of "the additional decode: size = 32". -/
def size64Outcome (b : Size64Behaviour) (word : Word) (run : Result) (s : State) : Result :=
  match b with
  | .undefined => .fault (.undefined word)
  | .nop => .next (nopDone s)
  | .size32 => recording word run

/-- R114 for one instruction whose word has `sz` = 11, in a state that passes its earlier checks. -/
def Size64Rule (i : Instr) (run : Result) (s : State) : Prop :=
  (s.cfg.cuSize64 = .defaultTreatment → exec i s = .fault (.unpredictable .size64)) ∧
  (∀ b, s.cfg.cuSize64 = .always b → exec i s = size64Outcome b (encode i) run s)

/-- R115 for one A1 row: an instruction with `cond` other than 1110, against the same instruction with 1110. -/
def CondRule (row : BitVec 4 → BitVec 4 → BitVec 4 → BitVec 2 → BitVec 1 → BitVec 4 → Instr) : Prop :=
  ∀ cond rn rd rm s, s.cfg.haveCrc = true → rd ≠ 15#4 → rn ≠ 15#4 → rm ≠ 15#4 → cond ≠ 14#4 → cond ≠ 15#4 →
    let asAlways := exec (row 14#4 rn rd 0#2 0#1 rm) s
    (s.cfg.cuCond = .defaultTreatment → exec (row cond rn rd 0#2 0#1 rm) s = .fault (.unpredictable .cond)) ∧
    (s.cfg.cuCond = .always .undefined →
      exec (row cond rn rd 0#2 0#1 rm) s = .fault (.undefined (encode (row cond rn rd 0#2 0#1 rm)))) ∧
    (s.cfg.cuCond = .always .nop → exec (row cond rn rd 0#2 0#1 rm) s = .next (nopDone s)) ∧
    (s.cfg.cuCond = .always .unconditional → exec (row cond rn rd 0#2 0#1 rm) s = asAlways) ∧
    (s.cfg.cuCond = .always .conditional →
      exec (row cond rn rd 0#2 0#1 rm) s = if condTable cond s.a32.flags then asAlways else .next (nopDone s))

/-- A varying `CU_COND` for one A1 row (log 5): with `cond` other than 1110 and 1111 the outcome is the common behaviour
under the free value at the counter, and a word that completes passes the counter; with 1110 nothing is drawn. -/
def CondVaries (size : Nat) (crc32c : Bool)
    (row : BitVec 4 → BitVec 4 → BitVec 4 → BitVec 2 → BitVec 1 → BitVec 4 → Instr) : Prop :=
  ∀ cond rn rd sbzHi sbz8 rm s, s.cfg.cuCond = .varying → cond ≠ 15#4 →
    exec (row cond rn rd sbzHi sbz8 rm) s =
      mapNext (if cond = 14#4 then id else drawn)
        (a1Common (some (Config.freeCond s.draws)) (encode (row cond rn rd sbzHi sbz8 rm)) size crc32c cond rn rd sbzHi
          sbz8 rm s)

/-- A varying `CU_SIZE64` for one instruction whose word has `sz` = 11 (log 5), in a state that passes its earlier checks:
the outcome of the free value at the counter; a word that completes leaves the counter one further on. -/
def Size64Varies (i : Instr) (run : Result) (s : State) : Prop :=
  s.cfg.cuSize64 = .varying →
    exec i s =
      mapNext (fun t => { t with draws := s.draws + 1 }) (size64Outcome (Config.freeSize64 s.draws) (encode i) run s)

/-! ### Helpers: A64 CRC32C -/

/-- `s` after a completed A64 CRC32C instruction (R104): `x[rd]`, unless `rd` is 31, and `pc`; nothing else. -/
def crc64Done (size : Nat) (rm rn rd : BitVec 5) (s : State) : State :=
  { s with
    a64 :=
      { s.a64 with
        x := s.a64.x.setIfInBounds rd.toNat
          ((crc size ((xReg s rn).setWidth 32) ((xReg s rm).setWidth size) true).setWidth 64)
        pc := s.a64.pc + 4#64 } }

/-- One A64 CRC32C row: its words (R102), where it completes and with what, and where it is UNDEFINED (R103). `good` is the
`sf` the row has, and `bad` the other. -/
def A64CrcRow (pattern : Word) (size : Nat) (good : Bool) (row : Bool → BitVec 5 → BitVec 5 → BitVec 5 → Instr) : Prop :=
  (∀ w : Word, w &&& 0xFFE0FC00#32 = pattern ↔ ∃ rm rn rd, decodeWord .a64 w = .ok (row good rm rn rd)) ∧
  (∀ rm rn rd s, s.cfg.haveCrc = true → exec (row good rm rn rd) s = .next (crc64Done size rm rn rd s)) ∧
  (∀ rm rn rd s, s.cfg.haveCrc = false →
    exec (row good rm rn rd) s = .fault (.undefined (encode (row good rm rn rd)))) ∧
  (∀ rm rn rd s, exec (row (!good) rm rn rd) s = .fault (.undefined (encode (row (!good) rm rn rd))))

/-! ### Helpers: every cause of a fault -/

/-- What an instruction's checks ask about, whatever its encoding: the AArch32 rows only. -/
structure CrcFields where
  a1 : Bool
  cond : BitVec 4
  size64 : Bool
  rn : BitVec 4
  rd : BitVec 4
  sbz : Bool
  rm : BitVec 4

/-- The fields of an AArch32 CRC instruction; T1 has no condition and no "(0)" bits. -/
def crcFields : Instr → Option CrcFields
  | .crc32bA1 cond rn rd sbzHi sbz8 rm => some ⟨true, cond, false, rn, rd, sbzHi != 0#2 || sbz8 != 0#1, rm⟩
  | .crc32hA1 cond rn rd sbzHi sbz8 rm => some ⟨true, cond, false, rn, rd, sbzHi != 0#2 || sbz8 != 0#1, rm⟩
  | .crc32wA1 cond size64 rn rd sbzHi sbz8 rm => some ⟨true, cond, size64, rn, rd, sbzHi != 0#2 || sbz8 != 0#1, rm⟩
  | .crc32cbA1 cond rn rd sbzHi sbz8 rm => some ⟨true, cond, false, rn, rd, sbzHi != 0#2 || sbz8 != 0#1, rm⟩
  | .crc32chA1 cond rn rd sbzHi sbz8 rm => some ⟨true, cond, false, rn, rd, sbzHi != 0#2 || sbz8 != 0#1, rm⟩
  | .crc32cwA1 cond size64 rn rd sbzHi sbz8 rm => some ⟨true, cond, size64, rn, rd, sbzHi != 0#2 || sbz8 != 0#1, rm⟩
  | .crc32bT1 rn rd rm => some ⟨false, 14#4, false, rn, rd, false, rm⟩
  | .crc32hT1 rn rd rm => some ⟨false, 14#4, false, rn, rd, false, rm⟩
  | .crc32wT1 rn rd size64 rm => some ⟨false, 14#4, size64, rn, rd, false, rm⟩
  | .crc32cbT1 rn rd rm => some ⟨false, 14#4, false, rn, rd, false, rm⟩
  | .crc32chT1 rn rd rm => some ⟨false, 14#4, false, rn, rd, false, rm⟩
  | .crc32cwT1 rn rd size64 rm => some ⟨false, 14#4, size64, rn, rd, false, rm⟩
  | .addExt32 _ _ _ _ _ | .addExt64 _ _ _ _ _ => none
  | .crc32cbA64 _ _ _ _ | .crc32chA64 _ _ _ _ | .crc32cwA64 _ _ _ _ | .crc32cxA64 _ _ _ _ => none

/-- The behaviour in force for `sz` = 11, none being the default treatment (R114). -/
def size64InForce (s : State) : Option Size64Behaviour :=
  match s.cfg.cuSize64 with
  | .defaultTreatment => none
  | .always b => some b
  | .varying => some (Config.freeSize64 s.draws)

/-- The behaviour in force for `cond` other than 1110, none being the default treatment (R115). -/
def condInForce (s : State) : Option CondBehaviour :=
  match s.cfg.cuCond with
  | .defaultTreatment => none
  | .always b => some b
  | .varying => some (Config.freeCond s.draws)

/-- The checks before `size == 64` all pass (R116). -/
def earlyChecksPass (f : CrcFields) (s : State) : Prop :=
  (f.a1 = false → s.a32.inItBlock = false) ∧ s.cfg.haveCrc = true ∧ f.sbz = false ∧
    f.rd ≠ 15#4 ∧ f.rn ≠ 15#4 ∧ f.rm ≠ 15#4

/-- The size check passes, so that the condition is looked at (R116). -/
def sizePasses (f : CrcFields) (s : State) : Prop := f.size64 = false ∨ size64InForce s = some .size32

/-- Rows 2 to 5 of R111, with the order of R116. -/
def crcUndefined (f : CrcFields) (s : State) : Prop :=
  ((f.a1 = false → s.a32.inItBlock = false) ∧ s.cfg.haveCrc = false) ∨
  (earlyChecksPass f s ∧ f.size64 = true ∧ size64InForce s = some .undefined) ∨
  (earlyChecksPass f s ∧ sizePasses f s ∧ f.cond ≠ 14#4 ∧ condInForce s = some .undefined)

/-- The rows of R113 by the cause they report, with the order of R116. -/
def crcUnpredictable (f : CrcFields) (s : State) (info : UnpredictableInfo) : Prop :=
  match info with
  | .inIt => f.a1 = false ∧ s.a32.inItBlock = true
  | .sbz => (f.a1 = false → s.a32.inItBlock = false) ∧ s.cfg.haveCrc = true ∧ f.sbz = true
  | .r15 =>
    (f.a1 = false → s.a32.inItBlock = false) ∧ s.cfg.haveCrc = true ∧ f.sbz = false ∧
      (f.rd = 15#4 ∨ f.rn = 15#4 ∨ f.rm = 15#4)
  | .size64 => earlyChecksPass f s ∧ f.size64 = true ∧ size64InForce s = none
  | .cond => earlyChecksPass f s ∧ sizePasses f s ∧ f.cond ≠ 14#4 ∧ condInForce s = none

/-- Rows 1 and 6 of R111: the A64 causes. -/
def a64Undefined (i : Instr) (s : State) : Prop :=
  match i with
  | .addExt32 _ _ imm3 _ _ => imm3 = 5#3 ∨ imm3 = 6#3 ∨ imm3 = 7#3
  | .addExt64 _ _ imm3 _ _ => imm3 = 5#3 ∨ imm3 = 6#3 ∨ imm3 = 7#3
  | .crc32cbA64 sf _ _ _ => s.cfg.haveCrc = false ∨ sf = true
  | .crc32chA64 sf _ _ _ => s.cfg.haveCrc = false ∨ sf = true
  | .crc32cwA64 sf _ _ _ => s.cfg.haveCrc = false ∨ sf = true
  | .crc32cxA64 sf _ _ _ => s.cfg.haveCrc = false ∨ sf = false
  | .crc32bA1 _ _ _ _ _ _ | .crc32hA1 _ _ _ _ _ _ | .crc32wA1 _ _ _ _ _ _ _ => False
  | .crc32bT1 _ _ _ | .crc32hT1 _ _ _ | .crc32wT1 _ _ _ _ => False
  | .crc32cbA1 _ _ _ _ _ _ | .crc32chA1 _ _ _ _ _ _ | .crc32cwA1 _ _ _ _ _ _ _ => False
  | .crc32cbT1 _ _ _ | .crc32chT1 _ _ _ | .crc32cwT1 _ _ _ _ => False

/-! ### Helpers: polynomials over {0,1} -/

/-- A bit string as a polynomial: bit k is the coefficient of t^k (R18). -/
noncomputable def toPoly {n : Nat} (b : BitVec n) : Polynomial (ZMod 2) :=
  ∑ k ∈ Finset.range n, if b.getLsbD k then Polynomial.X ^ k else 0

/-! ### Helpers: frames -/

/-- Everything of the state but the two records and the draw counter is as it was, every byte of the text among it. -/
def launchSame (s t : State) : Prop :=
  t.view = s.view ∧ t.cfg = s.cfg ∧ t.mark = s.mark ∧ t.textBase = s.textBase ∧ t.textWords = s.textWords ∧
    ∀ addr, t.mem.read addr = s.mem.read addr

/-- The parts of the AArch64 record no instruction writes (R26, R27). -/
def a64StatusSame (s t : State) : Prop := t.a64.flags = s.a64.flags ∧ t.a64.dit = s.a64.dit

/-- The parts of the AArch32 record no instruction writes (R31, R33, R34). -/
def a32StatusSame (s t : State) : Prop :=
  t.a32.flags = s.a32.flags ∧ t.a32.dit = s.a32.dit ∧ t.a32.inItBlock = s.a32.inItBlock

/-- Every `x` register but number `rd` is as it was (all of them when `rd` is 31). -/
def xOthersSame (rd : BitVec 5) (s t : State) : Prop := ∀ n : BitVec 5, n ≠ rd → xReg t n = xReg s n

/-- Every `r` register but number `rd` is as it was. -/
def rOthersSame (rd : BitVec 4) (s t : State) : Prop := ∀ n : BitVec 4, n ≠ rd → rReg t n = rReg s n

/-- The frame of an AArch32 CRC instruction with destination `rd`. -/
def CrcA32Frame (i : Instr) (rd : BitVec 4) : Prop :=
  ∀ s t, exec i s = .next t →
    rOthersSame rd s t ∧ a32StatusSame s t ∧ t.a64 = s.a64 ∧ launchSame s t

/-- The frame of an A64 instruction with destination `rd`; `spToo` says that number 31 as destination is the stack
pointer. -/
def A64Frame (i : Instr) (rd : BitVec 5) (spToo : Bool) : Prop :=
  ∀ s t, exec i s = .next t →
    xOthersSame rd s t ∧ (spToo = false ∨ rd ≠ 31#5 → t.a64.sp = s.a64.sp) ∧ a64StatusSame s t ∧ t.a32 = s.a32 ∧
      t.draws = s.draws ∧ launchSame s t

/-- The bytes at `pc`, with `pc` aligned and every byte in the text (R41). -/
def bytesAtPc (s : State) (b0 b1 b2 b3 : Byte) : Prop :=
  s.pcOf % View.fetchAlign s.view = 0 ∧ s.textByte s.pcOf = some b0 ∧ s.textByte (s.pcOf + 1) = some b1 ∧
    s.textByte (s.pcOf + 2) = some b2 ∧ s.textByte (s.pcOf + 3) = some b3

end Sys2Proof.Statements

open Sys2Proof Sys2Proof.Machine Sys2Proof.Statements

/-! ## ADD (extended register) -/

/-- R73: the 32-bit variant. Its words are those of R52's mask; with `imm3` at most 4 it completes with R73's value in the
destination, bits 63:32 zero, and nothing else changed; with `imm3` above 4 it is UNDEFINED. -/
def Obligations.AddExtended32Row : Prop :=
  (∀ w : Word, w &&& 0xFFE00000#32 = 0x0B200000#32 ↔
    ∃ rm option imm3 rn rd, decodeWord .a64 w = .ok (.addExt32 rm option imm3 rn rd)) ∧
  (∀ rm option imm3 rn rd s, imm3 ≤ 4#3 →
    exec (.addExt32 rm option imm3 rn rd) s = .next (addDone rd (addResult32 rm option imm3 rn s) s)) ∧
  (∀ rm option imm3 rn rd s, 4#3 < imm3 →
    exec (.addExt32 rm option imm3 rn rd) s = .fault (.undefined (encode (.addExt32 rm option imm3 rn rd))))

/-- R74: the 64-bit variant, in the same three parts. -/
def Obligations.AddExtended64Row : Prop :=
  (∀ w : Word, w &&& 0xFFE00000#32 = 0x8B200000#32 ↔
    ∃ rm option imm3 rn rd, decodeWord .a64 w = .ok (.addExt64 rm option imm3 rn rd)) ∧
  (∀ rm option imm3 rn rd s, imm3 ≤ 4#3 →
    exec (.addExt64 rm option imm3 rn rd) s = .next (addDone rd (addResult64 rm option imm3 rn s) s)) ∧
  (∀ rm option imm3 rn rd s, 4#3 < imm3 →
    exec (.addExt64 rm option imm3 rn rd) s = .fault (.undefined (encode (.addExt64 rm option imm3 rn rd))))

/-- spec/95_test_vectors.md 2.5 law 5: from the same registers the 32-bit variant's result is the low half of the 64-bit
variant's, for every extension and every shift 0 to 4; and with UXTX #0 the two sources of the 64-bit variant may be
swapped when neither is 31. -/
def Obligations.AddVariantsAgree : Prop :=
  (∀ rm option imm3 rn rd s t u, imm3 ≤ 4#3 → rd ≠ 31#5 →
    exec (.addExt32 rm option imm3 rn rd) s = .next t → exec (.addExt64 rm option imm3 rn rd) s = .next u →
    xReg t rd = ((xReg u rd).setWidth 32).setWidth 64) ∧
  (∀ rm rn rd s, rm ≠ 31#5 → rn ≠ 31#5 →
    exec (.addExt64 rm .uxtx 0#3 rn rd) s = exec (.addExt64 rn .uxtx 0#3 rm rd) s)

/-- R17: the result is the sum modulo 2^N, C says that the exact sum does not fit N bits unsigned, V that it does not fit N
bits signed, Z that the result is zero, N its top bit. -/
def Obligations.AddWithCarryFlags : Prop :=
  ∀ (n : Nat) (x y : BitVec n) (carry : Bool), 0 < n →
    let r := addWithCarry x y carry
    r.1.toNat = (x.toNat + y.toNat + carry.toNat) % 2 ^ n ∧
    r.2.n = r.1.msb ∧
    (r.2.z = true ↔ r.1 = 0#n) ∧
    (r.2.c = true ↔ 2 ^ n ≤ x.toNat + y.toNat + carry.toNat) ∧
    (r.2.v = true ↔
      x.toInt + y.toInt + (carry.toNat : Int) < -(2 ^ (n - 1) : Int) ∨
        (2 ^ (n - 1) : Int) ≤ x.toInt + y.toInt + (carry.toNat : Int))

/-! ## The CRC function -/

/-- R18: `BitReverse` mirrors the bits, and `Poly32Mod2` is the remainder on division by t^32 + poly(t). -/
def Obligations.PolyRemainder : Prop :=
  (∀ (n : Nat) (data : BitVec n) (i : Nat), i < n → (bitReverse data).getLsbD i = data.getLsbD (n - 1 - i)) ∧
  (∀ (n : Nat) (data : BitVec n) (poly : Word), 32 < n →
    toPoly (poly32Mod2 data poly) = toPoly data %ₘ (Polynomial.X ^ 32 + toPoly poly))

/-- R85, first sentence: the polynomial form and the bit-serial form are one function, at every size. -/
def Obligations.CrcSerialForm : Prop :=
  ∀ (size : Nat) (acc : Word) (val : BitVec size) (crc32c : Bool), crc size acc val crc32c = crcSerial size acc val crc32c

/-- R85, consequences (1) and (2): a step of 2k bits is two steps of k bits, low half first; CRC is linear over xor. -/
def Obligations.CrcChainsAndIsLinear : Prop :=
  (∀ (k : Nat) (acc : Word) (v : BitVec (2 * k)) (c : Bool),
    crc (2 * k) acc v c = crc k (crc k acc (v.extractLsb' 0 k) c) (v.extractLsb' k k) c) ∧
  (∀ (size : Nat) (a b : Word) (v w : BitVec size) (c : Bool),
    crc size (a ^^^ b) (v ^^^ w) c = crc size a v c ^^^ crc size b w c)

/-- R85, consequence (3), and its corollary in R98 item 5: the data meets the low bits of the accumulator, and a word folded
into itself gives zero. -/
def Obligations.CrcDataMeetsAccumulator : Prop :=
  (∀ (size : Nat) (acc : Word) (v : BitVec size) (c : Bool), size ≤ 32 →
    crc size acc v c = crc size 0#32 (acc.setWidth size ^^^ v) c ^^^ (acc >>> size)) ∧
  (∀ (a : Word) (c : Bool), crc 32 a a c = 0#32)

/-- spec/95_test_vectors.md 2.4: the nine bytes "123456789" give the two published check values, one byte at a time. -/
def Obligations.CrcCheckValues : Prop :=
  let message : List Byte := [0x31#8, 0x32#8, 0x33#8, 0x34#8, 0x35#8, 0x36#8, 0x37#8, 0x38#8, 0x39#8]
  ~~~(message.foldl (fun acc b => crc 8 acc b false) 0xFFFFFFFF#32) = 0xCBF43926#32 ∧
  ~~~(message.foldl (fun acc b => crc 8 acc b true) 0xFFFFFFFF#32) = 0xE3069283#32

/-! ## The CRC rows -/

/-- R86, R87, R88: CRC32B, CRC32H and CRC32W, encoding A1. The fault for a "(0)" bit is not the page's: the spec calls it "the
model's own check, not in the page's text" (D18), and log 11 marks it DESIGN CHOICE. -/
def Obligations.Crc32A1Rows : Prop :=
  A1Row 0xE1000040#32 8 false .crc32bA1 ∧ A1Row 0xE1200040#32 16 false .crc32hA1 ∧
  A1Row 0xE1400040#32 32 false (fun cond => .crc32wA1 cond false)

/-- R92, R93, R94: the C = 1 twins of the A1 rows. The decoder of a configuration gives an A1 word exactly what the page's
patterns give it, but for the words with bit 9 (C, R54) set, which need ADMIT_A32_CRC32C (R63, D4). The fault for a "(0)" bit is "the
model's own check, not in the page's text" (D18; log 11, DESIGN CHOICE). -/
def Obligations.Crc32cA1Rows : Prop :=
  A1Row 0xE1000240#32 8 true .crc32cbA1 ∧ A1Row 0xE1200240#32 16 true .crc32chA1 ∧
  A1Row 0xE1400240#32 32 true (fun cond => .crc32cwA1 cond false) ∧
  (∀ (cfg : Config) (w : Word) (i : Instr),
    decode cfg .a32 w = .ok i ↔
      decodeWord .a32 w = .ok i ∧ (w.getLsbD 9 = true → cfg.admitA32Crc32c = true))

/-- R89, R90, R91: CRC32B, CRC32H and CRC32W, encoding T1. -/
def Obligations.Crc32T1Rows : Prop :=
  T1Row 0xFAC0F080#32 8 false .crc32bT1 ∧ T1Row 0xFAC0F090#32 16 false .crc32hT1 ∧
  T1Row 0xFAC0F0A0#32 32 false (fun rn rd rm => .crc32wT1 rn rd false rm)

/-- R95, R96, R97: the C = 1 twins of the T1 rows. The decoder of a configuration gives a T1 pair exactly what the page's
patterns give it, but for the pairs with bit 4 of `hw1` (C, R56) set, which need ADMIT_A32_CRC32C (R63, D4). -/
def Obligations.Crc32cT1Rows : Prop :=
  T1Row 0xFAD0F080#32 8 true .crc32cbT1 ∧ T1Row 0xFAD0F090#32 16 true .crc32chT1 ∧
  T1Row 0xFAD0F0A0#32 32 true (fun rn rd rm => .crc32cwT1 rn rd false rm) ∧
  (∀ (cfg : Config) (w : Word) (i : Instr),
    decode cfg .t32 w = .ok i ↔
      decodeWord .t32 w = .ok i ∧ (w.getLsbD 20 = true → cfg.admitA32Crc32c = true))

/-- R104 to R107 with the decode of R103: CRC32CB, CRC32CH, CRC32CW and CRC32CX. The decoder of a configuration gives an A64
word exactly what the patterns give it, but for the words of R102's fixed bits (30:21 and 15:12), which need
ADMIT_TITLE_CRC32C (R100). -/
def Obligations.Crc32cA64Rows : Prop :=
  A64CrcRow 0x1AC05000#32 8 false .crc32cbA64 ∧ A64CrcRow 0x1AC05400#32 16 false .crc32chA64 ∧
  A64CrcRow 0x1AC05800#32 32 false .crc32cwA64 ∧ A64CrcRow 0x9AC05C00#32 64 true .crc32cxA64 ∧
  (∀ (cfg : Config) (w : Word) (i : Instr),
    decode cfg .a64 w = .ok i ↔
      decodeWord .a64 w = .ok i ∧ (w &&& 0x7FE0F000#32 = 0x1AC05000#32 → cfg.admitTitleCrc32c = true)) ∧
  (∀ (cfg : Config) (w : Word) (i : Instr), decodeWord .a64 w = .ok i → i.isTitleRow = true →
    (decode cfg .a64 w = .ok i ↔ cfg.admitTitleCrc32c = true))

/-- R114: `sz` = 11 in A1 and T1, C = 0 and C = 1, under the default treatment and each of the three behaviours. Under
`size32` the word behaves as the size-32 row with the remaining checks still made (in A1, the condition). -/
def Obligations.Size64Choices : Prop :=
  ∀ (cond rn rd rm : BitVec 4) (s : State), s.cfg.haveCrc = true → rd ≠ 15#4 → rn ≠ 15#4 → rm ≠ 15#4 →
    Size64Rule (.crc32wA1 14#4 true rn rd 0#2 0#1 rm) (.next (crcDone 32 false rn rd rm s)) s ∧
    Size64Rule (.crc32cwA1 14#4 true rn rd 0#2 0#1 rm) (.next (crcDone 32 true rn rd rm s)) s ∧
    (cond ≠ 14#4 → cond ≠ 15#4 →
      Size64Rule (.crc32wA1 cond true rn rd 0#2 0#1 rm) (exec (.crc32wA1 cond false rn rd 0#2 0#1 rm) s) s ∧
      Size64Rule (.crc32cwA1 cond true rn rd 0#2 0#1 rm) (exec (.crc32cwA1 cond false rn rd 0#2 0#1 rm) s) s) ∧
    (s.a32.inItBlock = false →
      Size64Rule (.crc32wT1 rn rd true rm) (.next (crcDone 32 false rn rd rm s)) s ∧
      Size64Rule (.crc32cwT1 rn rd true rm) (.next (crcDone 32 true rn rd rm s)) s)

/-- R115: `cond` other than 1110 in the six A1 rows, against the same instruction with 1110, under the default treatment and
each of the four behaviours; 1111 is no A1 word. -/
def Obligations.CondChoices : Prop :=
  CondRule .crc32bA1 ∧ CondRule .crc32hA1 ∧ CondRule (fun cond => .crc32wA1 cond false) ∧
  CondRule .crc32cbA1 ∧ CondRule .crc32chA1 ∧ CondRule (fun cond => .crc32cwA1 cond false) ∧
  (∀ w : Word, w.extractLsb' 28 4 = 15#4 → decodeWord .a32 w = .error .notShown)

/-- D8: "must let them vary per execution of the instruction". The third setting of each parameter, the model's own (log 5):
the behaviour of each execution is the free value at the counter `draws`, whatever that value is. -/
def Obligations.VaryingChoices : Prop :=
  CondVaries 8 false .crc32bA1 ∧ CondVaries 16 false .crc32hA1 ∧ CondVaries 32 false (fun cond => .crc32wA1 cond false) ∧
  CondVaries 8 true .crc32cbA1 ∧ CondVaries 16 true .crc32chA1 ∧ CondVaries 32 true (fun cond => .crc32cwA1 cond false) ∧
  (∀ (cond rn rd rm : BitVec 4) (s : State), s.cfg.haveCrc = true → rd ≠ 15#4 → rn ≠ 15#4 → rm ≠ 15#4 → cond ≠ 15#4 →
    Size64Varies (.crc32wA1 cond true rn rd 0#2 0#1 rm) (exec (.crc32wA1 cond false rn rd 0#2 0#1 rm) s) s ∧
    Size64Varies (.crc32cwA1 cond true rn rd 0#2 0#1 rm) (exec (.crc32cwA1 cond false rn rd 0#2 0#1 rm) s) s ∧
    (s.a32.inItBlock = false →
      Size64Varies (.crc32wT1 rn rd true rm) (.next (crcDone 32 false rn rd rm s)) s ∧
      Size64Varies (.crc32cwT1 rn rd true rm) (.next (crcDone 32 true rn rd rm s)) s))

/-- R111: an instruction faults as UNDEFINED exactly for the causes of the table, looked at in the order of R116, and the
fault's `info` is the instruction word. A varying
CU parameter counts as the behaviour it takes at this execution, which is the model's own setting (log 5). -/
def Obligations.UndefinedExactlyWhen : Prop :=
  ∀ (i : Instr) (s : State) (info : Word), i.wellFormed = true →
    (exec i s = .fault (.undefined info) ↔
      info = encode i ∧
        match crcFields i with
        | some f => crcUndefined f s
        | none => a64Undefined i s)

/-- R113: an instruction faults as UNPREDICTABLE exactly for the causes of the table, looked at in the order of R116 and
reported by the `info` of R58, and never in the A64 view. The "(0)" bits are the spec's own check (D18), and the name of what
they report is the model's (log 11). A varying CU parameter counts as the behaviour it takes (the model's own setting, log
5). -/
def Obligations.UnpredictableExactlyWhen : Prop :=
  ∀ (i : Instr) (s : State) (info : UnpredictableInfo), i.wellFormed = true →
    (exec i s = .fault (.unpredictable info) ↔
      match crcFields i with
      | some f => crcUnpredictable f s info
      | none => False)

/-- R126 at the instruction: no instruction is refused once it is decoded. -/
def Obligations.MeaningsNeverRefuse : Prop :=
  ∀ (i : Instr) (s : State) (r : Refusal), exec i s ≠ .refused r

/-! ## Frames -/

/-- The frame of both ADD rows: only the destination (the stack pointer when `Rd` is 31) and `pc` change. -/
def Obligations.AddFrame : Prop :=
  ∀ rm option imm3 rn rd,
    A64Frame (.addExt32 rm option imm3 rn rd) rd true ∧ A64Frame (.addExt64 rm option imm3 rn rd) rd true

/-- The frame of the four A64 CRC32C rows: only `x[Rd]` and `pc` change, and number 31 discards the result. -/
def Obligations.CrcA64Frame : Prop :=
  ∀ sf rm rn rd,
    A64Frame (.crc32cbA64 sf rm rn rd) rd false ∧ A64Frame (.crc32chA64 sf rm rn rd) rd false ∧
    A64Frame (.crc32cwA64 sf rm rn rd) rd false ∧ A64Frame (.crc32cxA64 sf rm rn rd) rd false

/-- The frame of the twelve AArch32 CRC rows, their `sz` = 11 forms and NOP outcomes included: only `r[Rd]`, `pc` and the
model's own draw counter change. -/
def Obligations.CrcA32Frames : Prop :=
  ∀ cond rn rd sbzHi sbz8 rm size64,
    CrcA32Frame (.crc32bA1 cond rn rd sbzHi sbz8 rm) rd ∧ CrcA32Frame (.crc32hA1 cond rn rd sbzHi sbz8 rm) rd ∧
    CrcA32Frame (.crc32wA1 cond size64 rn rd sbzHi sbz8 rm) rd ∧
    CrcA32Frame (.crc32cbA1 cond rn rd sbzHi sbz8 rm) rd ∧ CrcA32Frame (.crc32chA1 cond rn rd sbzHi sbz8 rm) rd ∧
    CrcA32Frame (.crc32cwA1 cond size64 rn rd sbzHi sbz8 rm) rd ∧
    CrcA32Frame (.crc32bT1 rn rd rm) rd ∧ CrcA32Frame (.crc32hT1 rn rd rm) rd ∧
    CrcA32Frame (.crc32wT1 rn rd size64 rm) rd ∧
    CrcA32Frame (.crc32cbT1 rn rd rm) rd ∧ CrcA32Frame (.crc32chT1 rn rd rm) rd ∧
    CrcA32Frame (.crc32cwT1 rn rd size64 rm) rd

/-! ## Encoding -/

/-- Decoding the word of a well-formed instruction gives it back, every operand at every value. -/
def Obligations.DecodeOfEncode : Prop :=
  ∀ i : Instr, i.wellFormed = true → decodeWord i.view (encode i) = .ok i

/-- A word that decodes is the word of the instruction it decodes to, which is well-formed and of that view. -/
def Obligations.EncodeOfDecode : Prop :=
  ∀ (v : View) (w : Word) (i : Instr), decodeWord v w = .ok i → i.view = v ∧ i.wellFormed = true ∧ encode i = w

/-- No word is an instruction of two views, so the opcode table's word alone says which view decodes it. -/
def Obligations.ViewsShareNoWord : Prop :=
  ∀ (u v : View) (w : Word) (i j : Instr), decodeWord u w = .ok i → decodeWord v w = .ok j → u = v ∧ i = j

/-- One word of each family written out from the diagrams (R51, R54, R56, R102), a T32 pair as `hw1:hw2`. -/
def Obligations.SampleWordsDecode : Prop :=
  decodeWord .a64 0b00001011001000101000000000100000#32 = .ok (.addExt32 2#5 .sxtb 0#3 1#5 0#5) ∧
  decodeWord .a64 0b10001011001000011100111111100000#32 = .ok (.addExt64 1#5 .sxtw 3#3 31#5 0#5) ∧
  decodeWord .a32 0b11100001010000110010000001000100#32 = .ok (.crc32wA1 14#4 false 3#4 2#4 0#2 0#1 4#4) ∧
  decodeWord .t32 0b11111010110000111111001010010100#32 = .ok (.crc32hT1 3#4 2#4 4#4) ∧
  decodeWord .a64 0b10011010110001010101110010000011#32 = .ok (.crc32cxA64 true 5#5 4#5 3#5)

/-- R64: in a running state whose launch is good and whose fetch gives a word, a word that is the encoding of no admitted
instruction of the view is refused as not shown. -/
def Obligations.UnmatchedWordRefused : Prop :=
  ∀ (s : State) (w : Word), s.mark = .running → s.launchRefusal = none → s.fetch = .ok w →
    (∀ i : Instr, i.view = s.view → i.wellFormed = true → i.admitted s.cfg = true → encode i ≠ w) →
    step s = .refused .notShown

/-! ## Fetch and step -/

/-- R42: the number of the fetched word, from its bytes in address order. -/
def Obligations.FetchAssemblesBytes : Prop :=
  ∀ (s : State) (b0 b1 b2 b3 : Byte), bytesAtPc s b0 b1 b2 b3 →
    ∃ w, s.fetch = .ok w ∧
      (s.view ≠ .t32 → w.toNat = b0.toNat + 2 ^ 8 * b1.toNat + 2 ^ 16 * b2.toNat + 2 ^ 24 * b3.toNat) ∧
      (s.view = .t32 → w.toNat = 2 ^ 16 * (b0.toNat + 2 ^ 8 * b1.toNat) + (b2.toNat + 2 ^ 8 * b3.toNat))

/-- When the bytes at `pc` decode to an instruction the configuration admits, in a running state whose launch is good, the
step is that instruction's execution and nothing around it. -/
def Obligations.StepRunsDecoded : Prop :=
  ∀ (s : State) (b0 b1 b2 b3 : Byte) (i : Instr), s.mark = .running → s.launchRefusal = none → bytesAtPc s b0 b1 b2 b3 →
    decodeBytes s.view [b0, b1, b2, b3] = .ok (i, []) → i.admitted s.cfg = true → step s = exec i s

/-- R45 and R41: in a running state with a good launch, a `pc` that is misaligned or outside the text is the end of the run
when it is one past the text, and is refused anywhere else. -/
def Obligations.FetchOutsideTheText : Prop :=
  ∀ s : State, s.mark = .running → s.launchRefusal = none →
    (s.pcOf % View.fetchAlign s.view ≠ 0 ∨ s.pcOf < s.textBase ∨ s.textEnd ≤ s.pcOf) →
    step s = if s.pcOf = s.textEnd then .refused .endOfRun else .refused .fetchOutsideText

/-- R45, R131, U13: a launch in an AArch32 view without AArch32, or of a text that reaches the top of the view's address
space, is refused. -/
def Obligations.BadLaunchRefused : Prop :=
  ∀ s : State, s.mark = .running →
    (s.view ≠ .a64 → s.cfg.haveAArch32 = false → step s = .refused .viewAbsent) ∧
    (s.view = .a64 ∨ s.cfg.haveAArch32 = true →
      (if s.view = .a64 then 2 ^ 64 else 2 ^ 32) ≤ s.textBase + 4 * s.textWords → step s = .refused .textReachesTop)

/-- R126: a step that stops sets the mark and changes nothing else, and a marked state stops again and stays as it is. -/
def Obligations.OutcomeIsSticky : Prop :=
  (∀ (s : State) (f : Fault), step s = .fault f → s.after = { s with mark := .faulted f }) ∧
  (∀ (s : State) (r : Refusal), r ≠ .endOfRun → step s = .refused r → s.after = { s with mark := .refused r }) ∧
  (∀ s : State, s.mark ≠ .running → (∀ t, step s ≠ .next t) ∧ s.after = s) ∧
  (∀ s t : State, step s = .next t → s.mark = .running ∧ t.mark = .running)

/-- Placing the word of an instruction where the machine fetches makes the very next step that instruction (the loader of
log 9), when the view's `pc` is aligned and the text it joins or makes stays below the top. -/
def Obligations.PlacedWordRuns : Prop :=
  ∀ (s : State) (i : Instr), i.wellFormed = true →
    (s.admitRow i).pcOf % View.fetchAlign i.view = 0 → (s.admitRow i).pcOf + 4 < View.addressLimit i.view →
    s.textEnd < View.addressLimit i.view →
    step (s.withFetchWord 32 (encode i).toNat) = exec i (s.withFetchWord 32 (encode i).toNat) ∧
    (s.withFetchWord 32 (encode i).toNat).a64 = s.a64 ∧ (s.withFetchWord 32 (encode i).toNat).a32 = s.a32

/-! ## The whole machine -/

/-- R68, R25, R30 with R26, R31, R34: whatever instruction a step runs, the view's `pc` moves by 4 and the other record is
untouched; the flags, the DIT bits, the IT bit, the configuration, the view, the mark and every byte of the text stay. -/
def Obligations.StepChangesOnlyRegisters : Prop :=
  ∀ s t : State, step s = .next t →
    launchSame s t ∧ a64StatusSame s t ∧ a32StatusSame s t ∧
    (s.view = .a64 → t.a64.pc = s.a64.pc + 4#64 ∧ t.a32 = s.a32) ∧
    (s.view ≠ .a64 → t.a32.pc = s.a32.pc + 4#32 ∧ t.a64 = s.a64)

/-- Every step keeps the run invariant (R43, R45, R131): the text is given and below the top, and `pc` is at one of its
instructions or one past the last. -/
def Obligations.StepKeepsRunInv : Prop :=
  ∀ s t : State, s.RunInv → step s = .next t → t.RunInv

/-- The state after reset is a launch state with an empty text, and what each field holds there. The mark, the IT bit, the
two switches and the two default treatments are the spec's defaults (R6, R38); the registers, flags and DIT bits are the
model's choice (log 1), as are the view and the presence of AArch32 and of the extension (log 2), and the text, its base and
both program counters (log 3). -/
def Obligations.ResetIsLaunch : Prop :=
  let clear : Flags := { n := false, z := false, c := false, v := false }
  State.reset.Launch ∧
    (∀ n, xReg State.reset n = 0#64) ∧ State.reset.a64.sp = 0#64 ∧ State.reset.a64.pc = 0#64 ∧
    State.reset.a64.flags = clear ∧ State.reset.a64.dit = false ∧
    (∀ n, rReg State.reset n = 0#32) ∧ State.reset.a32.pc = 0#32 ∧
    State.reset.a32.flags = clear ∧ State.reset.a32.dit = false ∧ State.reset.a32.inItBlock = false ∧
    State.reset.mark = .running ∧ State.reset.view = .a64 ∧
    State.reset.textBase = 0 ∧ State.reset.textWords = 0 ∧ (∀ addr, State.reset.mem.read addr = none) ∧
    State.reset.cfg.haveAArch32 = true ∧ State.reset.cfg.haveCrc = true ∧
    State.reset.cfg.admitTitleCrc32c = false ∧ State.reset.cfg.admitA32Crc32c = false ∧
    State.reset.cfg.cuSize64 = .defaultTreatment ∧ State.reset.cfg.cuCond = .defaultTreatment

/-- R133: from a launch state n completed steps leave `pc` at instruction n and never pass the end; at the end no step exists
and the state is final, and only there does a step answer `endOfRun`. -/
def Obligations.RunEndsAfterTheText : Prop :=
  (∀ (s t : State) (n : Nat), s.Launch → Sys2Proof.core.run n s = .next t →
    t.pcOf = s.textBase + 4 * n ∧ n ≤ s.textWords ∧ (t.ended = true ↔ n = s.textWords)) ∧
  (∀ s : State, s.RunInv → (step s = .refused .endOfRun ↔ s.ended = true)) ∧
  (∀ s : State, s.RunInv → s.ended = true → s.after = s)

/-- R39, D23: a step of the A64 view neither reads nor writes the AArch32 record, and a step of the other views neither
reads nor writes the AArch64 record. -/
def Obligations.ViewsDoNotTouchEachOther : Prop :=
  (∀ (s : State) (q : A32State), s.view = .a64 →
    step { s with a32 := q } = mapNext (fun t => { t with a32 := q }) (step s)) ∧
  (∀ (s : State) (q : A64State), s.view ≠ .a64 →
    step { s with a64 := q } = mapNext (fun t => { t with a64 := q }) (step s))

/-- R27, R33, R26, R31: no step consults a DIT bit or the AArch64 flags, and none consults the AArch32 flags unless CU_COND
is `Conditional` or varies. -/
def Obligations.StatusBitsNotConsulted : Prop :=
  ∀ (s : State) (d d' : Bool) (f f' : Flags),
    step { s with a64 := { s.a64 with dit := d, flags := f }, a32 := { s.a32 with dit := d' } } =
      mapNext (fun t => { t with a64 := { t.a64 with dit := d, flags := f }, a32 := { t.a32 with dit := d' } }) (step s) ∧
    (s.cfg.cuCond ≠ .always .conditional → s.cfg.cuCond ≠ .varying →
      step { s with a32 := { s.a32 with flags := f' } } =
        mapNext (fun t => { t with a32 := { t.a32 with flags := f' } }) (step s))

/-- R136: with one register as accumulator, data and destination the old value is read in both places before it is written
(A1 and T1 CRC32W and A64 ADD, 64-bit, as R98 item 5 and R76 item 6 have them). -/
def Obligations.SourcesReadBeforeWrite : Prop :=
  (∀ (r : BitVec 4) (s : State), s.cfg.haveCrc = true → r ≠ 15#4 →
    ∃ t, exec (.crc32wA1 14#4 false r r 0#2 0#1 r) s = .next t ∧ rReg t r = 0#32) ∧
  (∀ (r : BitVec 4) (s : State), s.cfg.haveCrc = true → s.a32.inItBlock = false → r ≠ 15#4 →
    ∃ t, exec (.crc32wT1 r r false r) s = .next t ∧ rReg t r = 0#32) ∧
  (∀ (r : BitVec 5) (s : State), r ≠ 31#5 →
    ∃ t, exec (.addExt64 r .uxtx 0#3 r r) s = .next t ∧ xReg t r = 2#64 * xReg s r)

/-- R111, last sentence: in a running state, an UNDEFINED fault of a step records the word that was fetched. -/
def Obligations.FaultRecordsTheWord : Prop :=
  ∀ (s : State) (info : Word), s.mark = .running → step s = .fault (.undefined info) → s.fetch = .ok info
end

