-- ==== Sys2Proof/Laws/Encoding.lean ====
section
/-! SUPPORT. The small lemmas of the encoder: the fields read back from each format, and a word from its bytes. -/

namespace Sys2Proof

/-- Reading a word's stored bytes back gives the word, in every view (R42). -/
theorem wordOfBytes_byteOfWord (v : View) (w : Word) :
    wordOfBytes v (byteOfWord v w 0) (byteOfWord v w 1) (byteOfWord v w 2) (byteOfWord v w 3) = w := by
  apply BitVec.eq_of_getLsbD_eq
  intro i hi
  cases v <;>
    (simp only [wordOfBytes, byteOfWord, BitVec.getLsbD_append]
     interval_cases i <;> simp)

/-- The decoder of stored bytes is the decoder of the word. -/
@[simp] theorem decodeBytes_bytesOfWord (v : View) (w : Word) :
    decodeBytes v (bytesOfWord v w) =
      match decodeWord v w with
      | .ok i => .ok (i, [])
      | .error e => .error e := by
  cases e : decodeWord v w <;> simp [bytesOfWord, decodeBytes, wordOfBytes_byteOfWord, e]

/-- `DecodeRegExtend` undoes its table. -/
@[simp] theorem decodeRegExtend_encode (t : ExtendType) : decodeRegExtend (encodeRegExtend t) = t := by
  cases t <;> rfl

/-- All eight `option` codes are allocated, each to one type (R53). -/
@[simp] theorem encodeRegExtend_decode (o : BitVec 3) : encodeRegExtend (decodeRegExtend o) = o := by
  revert o
  decide

section Fields

variable (sf : BitVec 1) (rm5 rn5 rd5 : BitVec 5) (option : ExtendType) (imm3 : BitVec 3)
variable (cond rn rd rm : BitVec 4) (sz sbzHi : BitVec 2) (c sbz8 : BitVec 1) (sfb : Bool)

theorem encodeAddExt_fields :
    (encodeAddExt sf rm5 option imm3 rn5 rd5).extractLsb' 31 1 = sf ∧
    (encodeAddExt sf rm5 option imm3 rn5 rd5).extractLsb' 21 10 = 0b0001011001#10 ∧
    (encodeAddExt sf rm5 option imm3 rn5 rd5).extractLsb' 16 5 = rm5 ∧
    (encodeAddExt sf rm5 option imm3 rn5 rd5).extractLsb' 13 3 = encodeRegExtend option ∧
    (encodeAddExt sf rm5 option imm3 rn5 rd5).extractLsb' 10 3 = imm3 ∧
    (encodeAddExt sf rm5 option imm3 rn5 rd5).extractLsb' 5 5 = rn5 ∧
    (encodeAddExt sf rm5 option imm3 rn5 rd5).extractLsb' 0 5 = rd5 := by
  refine ⟨?_, ?_, ?_, ?_, ?_, ?_, ?_⟩ <;>
    (apply BitVec.eq_of_getLsbD_eq
     intro i hi
     simp only [encodeAddExt, BitVec.getLsbD_extractLsb', BitVec.getLsbD_append]
     interval_cases i <;> simp)

theorem encodeA1_fields :
    (encodeA1 cond sz rn rd sbzHi c sbz8 rm).extractLsb' 28 4 = cond ∧
    (encodeA1 cond sz rn rd sbzHi c sbz8 rm).extractLsb' 23 5 = 0b00010#5 ∧
    (encodeA1 cond sz rn rd sbzHi c sbz8 rm).extractLsb' 21 2 = sz ∧
    (encodeA1 cond sz rn rd sbzHi c sbz8 rm).extractLsb' 20 1 = 0b0#1 ∧
    (encodeA1 cond sz rn rd sbzHi c sbz8 rm).extractLsb' 16 4 = rn ∧
    (encodeA1 cond sz rn rd sbzHi c sbz8 rm).extractLsb' 12 4 = rd ∧
    (encodeA1 cond sz rn rd sbzHi c sbz8 rm).extractLsb' 10 2 = sbzHi ∧
    (encodeA1 cond sz rn rd sbzHi c sbz8 rm).extractLsb' 9 1 = c ∧
    (encodeA1 cond sz rn rd sbzHi c sbz8 rm).extractLsb' 8 1 = sbz8 ∧
    (encodeA1 cond sz rn rd sbzHi c sbz8 rm).extractLsb' 4 4 = 0b0100#4 ∧
    (encodeA1 cond sz rn rd sbzHi c sbz8 rm).extractLsb' 0 4 = rm := by
  refine ⟨?_, ?_, ?_, ?_, ?_, ?_, ?_, ?_, ?_, ?_, ?_⟩ <;>
    (apply BitVec.eq_of_getLsbD_eq
     intro i hi
     simp only [encodeA1, BitVec.getLsbD_extractLsb', BitVec.getLsbD_append]
     interval_cases i <;> simp)

theorem encodeT1_fields :
    (encodeT1 c rn rd sz rm).extractLsb' 21 11 = 0b11111010110#11 ∧
    (encodeT1 c rn rd sz rm).extractLsb' 20 1 = c ∧
    (encodeT1 c rn rd sz rm).extractLsb' 16 4 = rn ∧
    (encodeT1 c rn rd sz rm).extractLsb' 12 4 = 0b1111#4 ∧
    (encodeT1 c rn rd sz rm).extractLsb' 8 4 = rd ∧
    (encodeT1 c rn rd sz rm).extractLsb' 6 2 = 0b10#2 ∧
    (encodeT1 c rn rd sz rm).extractLsb' 4 2 = sz ∧
    (encodeT1 c rn rd sz rm).extractLsb' 0 4 = rm := by
  refine ⟨?_, ?_, ?_, ?_, ?_, ?_, ?_, ?_⟩ <;>
    (apply BitVec.eq_of_getLsbD_eq
     intro i hi
     simp only [encodeT1, BitVec.getLsbD_extractLsb', BitVec.getLsbD_append]
     interval_cases i <;> simp)

theorem encodeCrcA64_fields :
    (encodeCrcA64 sfb rm5 sz rn5 rd5).extractLsb' 31 1 = BitVec.ofBool sfb ∧
    (encodeCrcA64 sfb rm5 sz rn5 rd5).extractLsb' 21 10 = 0b0011010110#10 ∧
    (encodeCrcA64 sfb rm5 sz rn5 rd5).extractLsb' 16 5 = rm5 ∧
    (encodeCrcA64 sfb rm5 sz rn5 rd5).extractLsb' 12 4 = 0b0101#4 ∧
    (encodeCrcA64 sfb rm5 sz rn5 rd5).extractLsb' 10 2 = sz ∧
    (encodeCrcA64 sfb rm5 sz rn5 rd5).extractLsb' 5 5 = rn5 ∧
    (encodeCrcA64 sfb rm5 sz rn5 rd5).extractLsb' 0 5 = rd5 := by
  refine ⟨?_, ?_, ?_, ?_, ?_, ?_, ?_⟩ <;>
    (apply BitVec.eq_of_getLsbD_eq
     intro i hi
     simp only [encodeCrcA64, BitVec.getLsbD_extractLsb', BitVec.getLsbD_append]
     interval_cases i <;> simp)

/-- Masking an encoded word keeps the fixed bits of its format: the diagrams agree with the table's masks (R52). -/
theorem encodeAddExt_masked :
    encodeAddExt sf rm5 option imm3 rn5 rd5 &&& 0xFFE00000#32 = (sf.setWidth 32 <<< 31) ||| 0x0B200000#32 := by
  apply BitVec.eq_of_getLsbD_eq
  intro i hi
  simp only [encodeAddExt, BitVec.getLsbD_and, BitVec.getLsbD_or, BitVec.getLsbD_append, BitVec.getLsbD_shiftLeft,
    BitVec.getLsbD_setWidth]
  interval_cases i <;> simp

/-- The same for A1 and R55's pattern mask, `sz` and C left as they are. -/
theorem encodeA1_masked :
    encodeA1 cond sz rn rd sbzHi c sbz8 rm &&& 0x0FF002F0#32 =
      (sz.setWidth 32 <<< 21) ||| (c.setWidth 32 <<< 9) ||| 0x01000040#32 := by
  apply BitVec.eq_of_getLsbD_eq
  intro i hi
  simp only [encodeA1, BitVec.getLsbD_and, BitVec.getLsbD_or, BitVec.getLsbD_append, BitVec.getLsbD_shiftLeft,
    BitVec.getLsbD_setWidth]
  interval_cases i <;> simp

/-- The same for T1 and R57's mask. -/
theorem encodeT1_masked :
    encodeT1 c rn rd sz rm &&& 0xFFF0F0F0#32 =
      (c.setWidth 32 <<< 20) ||| (sz.setWidth 32 <<< 4) ||| 0xFAC0F080#32 := by
  apply BitVec.eq_of_getLsbD_eq
  intro i hi
  simp only [encodeT1, BitVec.getLsbD_and, BitVec.getLsbD_or, BitVec.getLsbD_append, BitVec.getLsbD_shiftLeft,
    BitVec.getLsbD_setWidth]
  interval_cases i <;> simp

/-- The same for the A64 CRC format and R102's mask without `sf`. -/
theorem encodeCrcA64_masked :
    encodeCrcA64 sfb rm5 sz rn5 rd5 &&& 0x7FE0FC00#32 = (sz.setWidth 32 <<< 10) ||| 0x1AC05000#32 := by
  apply BitVec.eq_of_getLsbD_eq
  intro i hi
  simp only [encodeCrcA64, BitVec.getLsbD_and, BitVec.getLsbD_or, BitVec.getLsbD_append, BitVec.getLsbD_shiftLeft,
    BitVec.getLsbD_setWidth]
  interval_cases i <;> simp

end Fields

end Sys2Proof
end

