-- ==== Sys2Proof/Laws/Memory.lean ====
section
/-! SUPPORT. The laws of the program text's bytes: what a write is read back as, and that every operation over memory keeps
the canonical form. -/

namespace Sys2Proof.Machine

/-- A byte listed at an address is read back there. -/
@[simp] theorem Memory.read_write_same (m : Memory) (addr : Nat) (v : Byte) :
    (Memory.write m addr v).read addr = some v := by
  induction m with
  | nil => simp [Memory.write, Memory.read]
  | cons p rest ih =>
    obtain ⟨a, b⟩ := p
    simp only [Memory.write]
    split
    · simp [Memory.read]
    · split
      · simp [Memory.read]
      · rename_i h
        simp [Memory.read, Ne.symm h, ih]

/-- A write leaves every other address alone. -/
theorem Memory.read_write_other (m : Memory) (addr other : Nat) (v : Byte) (h : other ≠ addr) :
    (Memory.write m addr v).read other = m.read other := by
  induction m with
  | nil => simp [Memory.write, Memory.read, Ne.symm h]
  | cons p rest ih =>
    obtain ⟨a, b⟩ := p
    simp only [Memory.write]
    split
    · simp [Memory.read, Ne.symm h]
    · split
      · rename_i ha
        subst ha
        simp [Memory.read, Ne.symm h]
      · simp [Memory.read, ih]

/-- Writing at an address above `low` keeps the list rising from `low`. -/
theorem Memory.risesFrom_write (m : Memory) (low addr : Nat) (v : Byte) (hl : low < addr)
    (hm : Memory.risesFrom low m = true) : Memory.risesFrom low (Memory.write m addr v) = true := by
  induction m generalizing low with
  | nil => simp [Memory.write, Memory.risesFrom, hl]
  | cons p rest ih =>
    obtain ⟨a, b⟩ := p
    simp only [Memory.risesFrom, Bool.and_eq_true, decide_eq_true_eq] at hm
    simp only [Memory.write]
    split
    · simp [Memory.risesFrom, hm.2, *]
    · split
      · rename_i ha
        subst ha
        simp [Memory.risesFrom, hl, hm.2]
      · have : a < addr := by omega
        simp [Memory.risesFrom, hm.1, ih a this hm.2]

/-- A write keeps the canonical form. -/
theorem Memory.write_wf (m : Memory) (addr : Nat) (v : Byte) (hm : Memory.wf m = true) :
    Memory.wf (Memory.write m addr v) = true := by
  cases m with
  | nil => simp [Memory.write, Memory.wf, Memory.risesFrom]
  | cons p rest =>
    obtain ⟨a, b⟩ := p
    simp only [Memory.wf] at hm
    simp only [Memory.write]
    split
    · simp [Memory.wf, Memory.risesFrom, *]
    · split
      · rename_i ha
        subst ha
        simpa [Memory.wf] using hm
      · have : a < addr := by omega
        simpa [Memory.wf] using Memory.risesFrom_write rest a addr v this hm

/-- Listing several bytes keeps the canonical form. -/
theorem Memory.writeList_wf (m : Memory) (addr : Nat) (bytes : List Byte) (hm : Memory.wf m = true) :
    Memory.wf (Memory.writeList m addr bytes) = true := by
  induction bytes generalizing m addr with
  | nil => simpa [Memory.writeList] using hm
  | cons b rest ih => exact ih _ _ (Memory.write_wf m addr b hm)

/-- Listing bytes from `addr` on leaves every address below `addr` alone. -/
theorem Memory.read_writeList_below (m : Memory) (addr other : Nat) (bytes : List Byte) (h : other < addr) :
    (Memory.writeList m addr bytes).read other = m.read other := by
  induction bytes generalizing m addr with
  | nil => rfl
  | cons b rest ih =>
    rw [Memory.writeList, ih _ _ (by omega), Memory.read_write_other _ _ _ _ (by omega)]

/-- Byte `n` of a listing is read back at `addr + n`. -/
theorem Memory.read_writeList (m : Memory) (addr n : Nat) (bytes : List Byte) (h : n < bytes.length) :
    (Memory.writeList m addr bytes).read (addr + n) = some bytes[n] := by
  induction bytes generalizing m addr n with
  | nil => simp at h
  | cons b rest ih =>
    cases n with
    | zero => rw [Memory.writeList, Nat.add_zero, Memory.read_writeList_below _ _ _ _ (by omega)]; simp
    | succ k =>
      have := ih (Memory.write m addr b) (addr + 1) k (by simpa using h)
      rw [Memory.writeList, show addr + (k + 1) = addr + 1 + k by omega, this]
      simp

/-- The memory at reset is canonical. -/
theorem Memory.reset_wf : Memory.wf State.reset.mem = true := rfl

/-- Placing an instruction keeps the canonical form. -/
theorem State.placeAtPc_mem_wf (s : State) (bytes : List Byte) (hm : Memory.wf s.mem = true) :
    Memory.wf (s.placeAtPc bytes).mem = true := by
  unfold State.placeAtPc
  split
  · exact Memory.writeList_wf _ _ _ hm
  · exact Memory.writeList_wf _ _ _ rfl

/-- Loading an instruction keeps the canonical form. -/
theorem State.loadWord_mem_wf (s : State) (nbits w : Nat) (hm : Memory.wf s.mem = true) :
    Memory.wf (s.loadWord nbits w).mem = true := by
  unfold State.loadWord
  simp only
  apply State.placeAtPc_mem_wf
  split
  · exact hm
  · exact hm

/-- An unlisted address reads as nothing: an address at or below every listed one is not read. -/
theorem Memory.read_of_risesFrom (m : Memory) (low addr : Nat) (hm : Memory.risesFrom low m = true) (h : addr ≤ low) :
    m.read addr = none := by
  induction m generalizing low with
  | nil => rfl
  | cons p rest ih =>
    obtain ⟨a, b⟩ := p
    simp only [Memory.risesFrom, Bool.and_eq_true, decide_eq_true_eq] at hm
    rw [Memory.read, if_neg (by omega), ih a hm.2 (by omega)]

/-- Two canonical memories that read alike everywhere are the same list, so equal texts are equal data. -/
theorem Memory.ext_of_risesFrom (m m' : Memory) (low : Nat) (hm : Memory.risesFrom low m = true)
    (hm' : Memory.risesFrom low m' = true) (h : ∀ addr, m.read addr = m'.read addr) : m = m' := by
  induction m generalizing m' low with
  | nil =>
    cases m' with
    | nil => rfl
    | cons p rest => have := h p.1; simp [Memory.read] at this
  | cons p rest ih =>
    obtain ⟨a, b⟩ := p
    cases m' with
    | nil => have := h a; simp [Memory.read] at this
    | cons p' rest' =>
      obtain ⟨a', b'⟩ := p'
      simp only [Memory.risesFrom, Bool.and_eq_true, decide_eq_true_eq] at hm hm'
      have hne : ¬ a < a' := fun hlt => by
        have := h a
        rw [Memory.read, if_pos rfl, Memory.read, if_neg (by omega),
          Memory.read_of_risesFrom rest' a' a hm'.2 (by omega)] at this
        cases this
      have hne' : ¬ a' < a := fun hlt => by
        have := h a'
        rw [Memory.read, if_neg (by omega), Memory.read_of_risesFrom rest a a' hm.2 (by omega), Memory.read,
          if_pos rfl] at this
        cases this
      have ha : a = a' := by omega
      subst ha
      have hb : b = b' := by simpa [Memory.read] using h a
      subst hb
      have hrest : rest = rest' := ih rest' a hm.2 hm'.2 fun addr => by
        have := h addr
        simp only [Memory.read] at this
        by_cases ht : a = addr
        · rw [Memory.read_of_risesFrom rest a addr hm.2 (by omega),
            Memory.read_of_risesFrom rest' a addr hm'.2 (by omega)]
        · simpa [ht] using this
      rw [hrest]

end Sys2Proof.Machine
end

