-- ==== Sys2Proof/Laws/State.lean ====
section
/-! SUPPORT. One lemma per field per update of the state, for simp, so that no proof unfolds a record update. -/

namespace Sys2Proof.Machine

/-! ### Fields an update leaves alone -/

@[simp] theorem State.xWrite_view (s : State) (n : BitVec 5) (w : Nat) (v : BitVec w) :
    (s.xWrite n w v).view = s.view := by unfold State.xWrite; split <;> rfl
@[simp] theorem State.xWrite_cfg (s : State) (n : BitVec 5) (w : Nat) (v : BitVec w) :
    (s.xWrite n w v).cfg = s.cfg := by unfold State.xWrite; split <;> rfl
@[simp] theorem State.xWrite_mark (s : State) (n : BitVec 5) (w : Nat) (v : BitVec w) :
    (s.xWrite n w v).mark = s.mark := by unfold State.xWrite; split <;> rfl
@[simp] theorem State.xWrite_mem (s : State) (n : BitVec 5) (w : Nat) (v : BitVec w) :
    (s.xWrite n w v).mem = s.mem := by unfold State.xWrite; split <;> rfl
@[simp] theorem State.xWrite_textBase (s : State) (n : BitVec 5) (w : Nat) (v : BitVec w) :
    (s.xWrite n w v).textBase = s.textBase := by unfold State.xWrite; split <;> rfl
@[simp] theorem State.xWrite_textWords (s : State) (n : BitVec 5) (w : Nat) (v : BitVec w) :
    (s.xWrite n w v).textWords = s.textWords := by unfold State.xWrite; split <;> rfl
@[simp] theorem State.xWrite_draws (s : State) (n : BitVec 5) (w : Nat) (v : BitVec w) :
    (s.xWrite n w v).draws = s.draws := by unfold State.xWrite; split <;> rfl
@[simp] theorem State.xWrite_a32 (s : State) (n : BitVec 5) (w : Nat) (v : BitVec w) :
    (s.xWrite n w v).a32 = s.a32 := by unfold State.xWrite; split <;> rfl
@[simp] theorem State.xWrite_a64_sp (s : State) (n : BitVec 5) (w : Nat) (v : BitVec w) :
    (s.xWrite n w v).a64.sp = s.a64.sp := by unfold State.xWrite; split <;> rfl
@[simp] theorem State.xWrite_a64_pc (s : State) (n : BitVec 5) (w : Nat) (v : BitVec w) :
    (s.xWrite n w v).a64.pc = s.a64.pc := by unfold State.xWrite; split <;> rfl
@[simp] theorem State.xWrite_a64_flags (s : State) (n : BitVec 5) (w : Nat) (v : BitVec w) :
    (s.xWrite n w v).a64.flags = s.a64.flags := by unfold State.xWrite; split <;> rfl
@[simp] theorem State.xWrite_a64_dit (s : State) (n : BitVec 5) (w : Nat) (v : BitVec w) :
    (s.xWrite n w v).a64.dit = s.a64.dit := by unfold State.xWrite; split <;> rfl

@[simp] theorem State.spWrite_view (s : State) (w : Nat) (v : BitVec w) : (s.spWrite w v).view = s.view := rfl
@[simp] theorem State.spWrite_cfg (s : State) (w : Nat) (v : BitVec w) : (s.spWrite w v).cfg = s.cfg := rfl
@[simp] theorem State.spWrite_mark (s : State) (w : Nat) (v : BitVec w) : (s.spWrite w v).mark = s.mark := rfl
@[simp] theorem State.spWrite_mem (s : State) (w : Nat) (v : BitVec w) : (s.spWrite w v).mem = s.mem := rfl
@[simp] theorem State.spWrite_textBase (s : State) (w : Nat) (v : BitVec w) :
    (s.spWrite w v).textBase = s.textBase := rfl
@[simp] theorem State.spWrite_textWords (s : State) (w : Nat) (v : BitVec w) :
    (s.spWrite w v).textWords = s.textWords := rfl
@[simp] theorem State.spWrite_draws (s : State) (w : Nat) (v : BitVec w) : (s.spWrite w v).draws = s.draws := rfl
@[simp] theorem State.spWrite_a32 (s : State) (w : Nat) (v : BitVec w) : (s.spWrite w v).a32 = s.a32 := rfl
@[simp] theorem State.spWrite_a64_x (s : State) (w : Nat) (v : BitVec w) : (s.spWrite w v).a64.x = s.a64.x := rfl
@[simp] theorem State.spWrite_a64_pc (s : State) (w : Nat) (v : BitVec w) : (s.spWrite w v).a64.pc = s.a64.pc := rfl
@[simp] theorem State.spWrite_a64_flags (s : State) (w : Nat) (v : BitVec w) :
    (s.spWrite w v).a64.flags = s.a64.flags := rfl
@[simp] theorem State.spWrite_a64_dit (s : State) (w : Nat) (v : BitVec w) :
    (s.spWrite w v).a64.dit = s.a64.dit := rfl

@[simp] theorem State.setFlags64_view (s : State) (f : Flags) : (s.setFlags64 f).view = s.view := rfl
@[simp] theorem State.setFlags64_cfg (s : State) (f : Flags) : (s.setFlags64 f).cfg = s.cfg := rfl
@[simp] theorem State.setFlags64_mark (s : State) (f : Flags) : (s.setFlags64 f).mark = s.mark := rfl
@[simp] theorem State.setFlags64_mem (s : State) (f : Flags) : (s.setFlags64 f).mem = s.mem := rfl
@[simp] theorem State.setFlags64_textBase (s : State) (f : Flags) : (s.setFlags64 f).textBase = s.textBase := rfl
@[simp] theorem State.setFlags64_textWords (s : State) (f : Flags) : (s.setFlags64 f).textWords = s.textWords := rfl
@[simp] theorem State.setFlags64_draws (s : State) (f : Flags) : (s.setFlags64 f).draws = s.draws := rfl
@[simp] theorem State.setFlags64_a32 (s : State) (f : Flags) : (s.setFlags64 f).a32 = s.a32 := rfl
@[simp] theorem State.setFlags64_a64_x (s : State) (f : Flags) : (s.setFlags64 f).a64.x = s.a64.x := rfl
@[simp] theorem State.setFlags64_a64_sp (s : State) (f : Flags) : (s.setFlags64 f).a64.sp = s.a64.sp := rfl
@[simp] theorem State.setFlags64_a64_pc (s : State) (f : Flags) : (s.setFlags64 f).a64.pc = s.a64.pc := rfl
@[simp] theorem State.setFlags64_a64_dit (s : State) (f : Flags) : (s.setFlags64 f).a64.dit = s.a64.dit := rfl

@[simp] theorem State.advance64_view (s : State) : (s.advance64).view = s.view := rfl
@[simp] theorem State.advance64_cfg (s : State) : (s.advance64).cfg = s.cfg := rfl
@[simp] theorem State.advance64_mark (s : State) : (s.advance64).mark = s.mark := rfl
@[simp] theorem State.advance64_mem (s : State) : (s.advance64).mem = s.mem := rfl
@[simp] theorem State.advance64_textBase (s : State) : (s.advance64).textBase = s.textBase := rfl
@[simp] theorem State.advance64_textWords (s : State) : (s.advance64).textWords = s.textWords := rfl
@[simp] theorem State.advance64_draws (s : State) : (s.advance64).draws = s.draws := rfl
@[simp] theorem State.advance64_a32 (s : State) : (s.advance64).a32 = s.a32 := rfl
@[simp] theorem State.advance64_a64_x (s : State) : (s.advance64).a64.x = s.a64.x := rfl
@[simp] theorem State.advance64_a64_sp (s : State) : (s.advance64).a64.sp = s.a64.sp := rfl
@[simp] theorem State.advance64_a64_flags (s : State) : (s.advance64).a64.flags = s.a64.flags := rfl
@[simp] theorem State.advance64_a64_dit (s : State) : (s.advance64).a64.dit = s.a64.dit := rfl

@[simp] theorem State.rWrite_view (s : State) (n : Fin 15) (v : Word) : (s.rWrite n v).view = s.view := rfl
@[simp] theorem State.rWrite_cfg (s : State) (n : Fin 15) (v : Word) : (s.rWrite n v).cfg = s.cfg := rfl
@[simp] theorem State.rWrite_mark (s : State) (n : Fin 15) (v : Word) : (s.rWrite n v).mark = s.mark := rfl
@[simp] theorem State.rWrite_mem (s : State) (n : Fin 15) (v : Word) : (s.rWrite n v).mem = s.mem := rfl
@[simp] theorem State.rWrite_textBase (s : State) (n : Fin 15) (v : Word) :
    (s.rWrite n v).textBase = s.textBase := rfl
@[simp] theorem State.rWrite_textWords (s : State) (n : Fin 15) (v : Word) :
    (s.rWrite n v).textWords = s.textWords := rfl
@[simp] theorem State.rWrite_draws (s : State) (n : Fin 15) (v : Word) : (s.rWrite n v).draws = s.draws := rfl
@[simp] theorem State.rWrite_a64 (s : State) (n : Fin 15) (v : Word) : (s.rWrite n v).a64 = s.a64 := rfl
@[simp] theorem State.rWrite_a32_pc (s : State) (n : Fin 15) (v : Word) : (s.rWrite n v).a32.pc = s.a32.pc := rfl
@[simp] theorem State.rWrite_a32_flags (s : State) (n : Fin 15) (v : Word) :
    (s.rWrite n v).a32.flags = s.a32.flags := rfl
@[simp] theorem State.rWrite_a32_dit (s : State) (n : Fin 15) (v : Word) : (s.rWrite n v).a32.dit = s.a32.dit := rfl
@[simp] theorem State.rWrite_a32_inItBlock (s : State) (n : Fin 15) (v : Word) :
    (s.rWrite n v).a32.inItBlock = s.a32.inItBlock := rfl

@[simp] theorem State.advance32_view (s : State) : (s.advance32).view = s.view := rfl
@[simp] theorem State.advance32_cfg (s : State) : (s.advance32).cfg = s.cfg := rfl
@[simp] theorem State.advance32_mark (s : State) : (s.advance32).mark = s.mark := rfl
@[simp] theorem State.advance32_mem (s : State) : (s.advance32).mem = s.mem := rfl
@[simp] theorem State.advance32_textBase (s : State) : (s.advance32).textBase = s.textBase := rfl
@[simp] theorem State.advance32_textWords (s : State) : (s.advance32).textWords = s.textWords := rfl
@[simp] theorem State.advance32_draws (s : State) : (s.advance32).draws = s.draws := rfl
@[simp] theorem State.advance32_a64 (s : State) : (s.advance32).a64 = s.a64 := rfl
@[simp] theorem State.advance32_a32_r (s : State) : (s.advance32).a32.r = s.a32.r := rfl
@[simp] theorem State.advance32_a32_flags (s : State) : (s.advance32).a32.flags = s.a32.flags := rfl
@[simp] theorem State.advance32_a32_dit (s : State) : (s.advance32).a32.dit = s.a32.dit := rfl
@[simp] theorem State.advance32_a32_inItBlock (s : State) : (s.advance32).a32.inItBlock = s.a32.inItBlock := rfl

@[simp] theorem State.passDraw_view (s : State) (used : Bool) : (s.passDraw used).view = s.view := rfl
@[simp] theorem State.passDraw_cfg (s : State) (used : Bool) : (s.passDraw used).cfg = s.cfg := rfl
@[simp] theorem State.passDraw_mark (s : State) (used : Bool) : (s.passDraw used).mark = s.mark := rfl
@[simp] theorem State.passDraw_mem (s : State) (used : Bool) : (s.passDraw used).mem = s.mem := rfl
@[simp] theorem State.passDraw_textBase (s : State) (used : Bool) : (s.passDraw used).textBase = s.textBase := rfl
@[simp] theorem State.passDraw_textWords (s : State) (used : Bool) : (s.passDraw used).textWords = s.textWords := rfl
@[simp] theorem State.passDraw_a64 (s : State) (used : Bool) : (s.passDraw used).a64 = s.a64 := rfl
@[simp] theorem State.passDraw_a32 (s : State) (used : Bool) : (s.passDraw used).a32 = s.a32 := rfl

/-! ### The field an update writes -/

@[simp] theorem State.spWrite_a64_sp (s : State) (w : Nat) (v : BitVec w) :
    (s.spWrite w v).a64.sp = v.setWidth 64 := rfl
@[simp] theorem State.setFlags64_a64_flags (s : State) (f : Flags) : (s.setFlags64 f).a64.flags = f := rfl
@[simp] theorem State.advance64_a64_pc (s : State) : s.advance64.a64.pc = s.a64.pc + 4#64 := rfl
@[simp] theorem State.advance32_a32_pc (s : State) : s.advance32.a32.pc = s.a32.pc + 4#32 := rfl
@[simp] theorem State.rWrite_a32_r (s : State) (n : Fin 15) (v : Word) : (s.rWrite n v).a32.r = s.a32.r.set n v := rfl
@[simp] theorem State.passDraw_draws (s : State) (used : Bool) :
    (s.passDraw used).draws = if used then s.draws + 1 else s.draws := rfl

/-- A write of `x[n]` sets that register, zero-extended; a write of number 31 changes nothing. -/
theorem State.xWrite_a64_x (s : State) (n : BitVec 5) (w : Nat) (v : BitVec w) :
    (s.xWrite n w v).a64.x = s.a64.x.setIfInBounds n.toNat (v.setWidth 64) := by
  unfold State.xWrite
  split <;> rename_i h
  · apply Vector.ext
    intro i hi
    simp [Vector.getElem_set, Vector.getElem_setIfInBounds]
  · apply Vector.ext
    intro i hi
    rw [Vector.getElem_setIfInBounds]
    split
    · omega
    · rfl

/-! ### Reads -/

@[simp] theorem State.xRead_zero (s : State) (w : Nat) : s.xRead 31#5 w = 0#w := by simp [State.xRead]

theorem State.xRead_of_lt (s : State) (n : BitVec 5) (w : Nat) (h : n.toNat < 31) :
    s.xRead n w = (s.a64.x[n.toNat]).setWidth w := by simp [State.xRead, h]

/-- A 32-bit name is the low half of the 64-bit register (R21, R39). -/
theorem State.xRead_low (s : State) (n : BitVec 5) : s.xRead n 32 = (s.xRead n 64).setWidth 32 := by
  unfold State.xRead
  split <;> simp

end Sys2Proof.Machine
end

