-- ==== Sys2Proof/Laws/Outcome.lean ====
section
/-! SUPPORT. What each shared operation can answer, said once: the operands, the checks, the three families, the fetch and
the step. -/

namespace Sys2Proof.Machine

/-! ### Operands and flags -/

/-- The result of `AddWithCarry` without a carry in is the sum (R17, R75). -/
@[simp] theorem addWithCarry_result (n : Nat) (x y : BitVec n) : (addWithCarry x y false).1 = x + y := by
  apply BitVec.eq_of_toNat_eq
  simp [addWithCarry]

/-- A register number in A1 and T1 that is not 15 names a register (R29). -/
theorem regNumber_of_ne (n : BitVec 4) (h : n ≠ 15#4) :
    ∃ hn : n.toNat < 15, regNumber n = some ⟨n.toNat, hn⟩ := by
  have hn : n.toNat < 15 := by
    have := n.isLt
    have hne : n.toNat ≠ 15 := fun e => h (BitVec.eq_of_toNat_eq (by simpa using e))
    omega
  exact ⟨hn, by simp [regNumber, hn]⟩

/-- Number 15 names none. -/
@[simp] theorem regNumber_fifteen : regNumber 15#4 = none := by decide

/-! ### Checks -/

@[simp] theorem Check.andThen_pass {α β : Type} (a : α) (k : α → Check β) : (Check.pass a).andThen k = k a := rfl

@[simp] theorem Check.andThen_nop {α β : Type} (k : α → Check β) : (Check.nop : Check α).andThen k = .nop := rfl

@[simp] theorem Check.andThen_stop {α β : Type} (c : Cause) (k : α → Check β) :
    (Check.stop c : Check α).andThen k = .stop c := rfl

theorem State.checkItBlock_eq (s : State) :
    s.checkItBlock = if s.a32.inItBlock = true then .stop (.unpredictable .inIt) else .pass () := rfl

theorem State.checkCrcExt_eq (s : State) :
    s.checkCrcExt = if s.cfg.haveCrc = true then .pass () else .stop .undefined := rfl

/-- The register check passes exactly when no number is 15 (R82). -/
theorem checkRegs_of_ne (rd rn rm : BitVec 4) (hd : rd ≠ 15#4) (hn : rn ≠ 15#4) (hm : rm ≠ 15#4) :
    ∃ (d : rd.toNat < 15) (n : rn.toNat < 15) (m : rm.toNat < 15),
      checkRegs rd rn rm = .pass (⟨rd.toNat, d⟩, ⟨rn.toNat, n⟩, ⟨rm.toNat, m⟩) := by
  obtain ⟨d, ed⟩ := regNumber_of_ne rd hd
  obtain ⟨n, en⟩ := regNumber_of_ne rn hn
  obtain ⟨m, em⟩ := regNumber_of_ne rm hm
  exact ⟨d, n, m, by simp [checkRegs, ed, en, em]⟩

theorem checkRegs_of_fifteen (rd rn rm : BitVec 4) (h : rd = 15#4 ∨ rn = 15#4 ∨ rm = 15#4) :
    checkRegs rd rn rm = .stop (.unpredictable .r15) := by
  unfold checkRegs
  obtain rfl | rfl | rfl := h
  · simp
  · cases regNumber rd <;> simp
  · cases regNumber rd <;> cases regNumber rn <;> simp

/-- What passes the register check names the destination the word has. -/
theorem checkRegs_pass (rd rn rm : BitVec 4) (r : Fin 15 × Fin 15 × Fin 15) (h : checkRegs rd rn rm = .pass r) :
    r.1.val = rd.toNat ∧ r.2.1.val = rn.toNat ∧ r.2.2.val = rm.toNat := by
  by_cases hd : rd = 15#4
  · rw [checkRegs_of_fifteen rd rn rm (.inl hd)] at h; cases h
  by_cases hn : rn = 15#4
  · rw [checkRegs_of_fifteen rd rn rm (.inr (.inl hn))] at h; cases h
  by_cases hm : rm = 15#4
  · rw [checkRegs_of_fifteen rd rn rm (.inr (.inr hm))] at h; cases h
  obtain ⟨_, _, _, e⟩ := checkRegs_of_ne rd rn rm hd hn hm
  rw [e] at h
  cases h
  exact ⟨rfl, rfl, rfl⟩

/-- `raise` answers a fault, which carries the word or the cause. -/
theorem raise_fault (word : Word) (c : Cause) :
    raise word c = .fault (match c with | .undefined => .undefined word | .unpredictable info => .unpredictable info) := by
  cases c <;> rfl

/-! ### The families -/

/-- An ADD that answers a next state passed its one check, and that state is the Operation's with `pc` advanced. -/
theorem addExtended_next (n : Nat) (word : Word) (rm : BitVec 5) (option : ExtendType) (imm3 : BitVec 3) (rn rd : BitVec 5)
    (s t : State) (h : addExtended n word rm option imm3 rn rd s = .next t) :
    imm3.toNat ≤ 4 ∧ t = (addSubExtended n false false rm option imm3.toNat rn rd s).advance64 := by
  unfold addExtended raise at h
  split at h
  · cases h
  · injection h with h
    exact ⟨by omega, h.symm⟩

/-- The Operation without `op` and `S` writes one register: the stack pointer for 31, else `x[rd]`. -/
theorem addSubExtended_plain (n : Nat) (rm : BitVec 5) (option : ExtendType) (shift : Nat) (rn rd : BitVec 5)
    (s : State) :
    addSubExtended n false false rm option shift rn rd s =
      if rd = 31#5 then s.spWrite n (s.xspRead rn n + s.extendReg rm option shift n)
      else s.xWrite rd n (s.xspRead rn n + s.extendReg rm option shift n) := by
  simp [addSubExtended]

/-- An AArch32 CRC instruction that answers a next state either only advanced `pc` or wrote its one register. -/
theorem State.finishCrc_next (s t : State) (word : Word) (crc32c drew : Bool) (c : Check CrcOperands)
    (h : s.finishCrc word crc32c drew c = .next t) :
    (c = .nop ∧ t = (s.passDraw drew).advance32) ∨
      ∃ op, c = .pass op ∧ t = ((s.crcWrite op crc32c).passDraw drew).advance32 := by
  cases c with
  | stop c => cases c <;> cases h
  | nop => injection h with h; exact .inl ⟨rfl, h.symm⟩
  | pass op => injection h with h; exact .inr ⟨op, rfl, h.symm⟩

/-- An AArch32 CRC instruction faults only where a check stopped it. -/
theorem State.finishCrc_fault (s : State) (word : Word) (crc32c drew : Bool) (c : Check CrcOperands) (f : Fault)
    (h : s.finishCrc word crc32c drew c = .fault f) : ∃ cause, c = .stop cause ∧ raise word cause = .fault f := by
  cases c with
  | stop cause => exact ⟨cause, rfl, h⟩
  | nop => cases h
  | pass op => cases h

/-- An UNDEFINED fault raised by a check records the word the check was made on (R111). -/
theorem raise_undefined (word info : Word) (c : Cause) (h : raise word c = .fault (.undefined info)) :
    c = .undefined ∧ info = word := by
  cases c with
  | undefined => cases h; exact ⟨rfl, rfl⟩
  | unpredictable i => cases h

/-- An A64 CRC instruction that answers a next state passed its checks and wrote its one register. -/
theorem crcA64_next (word : Word) (sz : BitVec 2) (sf : Bool) (rm rn rd : BitVec 5) (s t : State)
    (h : crcA64 word sz sf rm rn rd s = .next t) :
    s.checksCrcA64 sf sz = .nop ∧ t = s.advance64 ∨
      ∃ size, s.checksCrcA64 sf sz = .pass size ∧
        t = (s.xWrite rd 32 (crc size (s.xRead rn 32) ((s.xRead rm (crcDataWidth size)).setWidth size) true)).advance64 := by
  unfold crcA64 at h
  cases e : s.checksCrcA64 sf sz with
  | stop c => rw [e] at h; cases c <;> cases h
  | nop => rw [e] at h; injection h with h; exact .inl ⟨rfl, h.symm⟩
  | pass size => rw [e] at h; injection h with h; exact .inr ⟨size, rfl, h.symm⟩

/-- The A64 CRC checks never come to a NOP (R103). -/
theorem State.checksCrcA64_ne_nop (s : State) (sf : Bool) (sz : BitVec 2) : s.checksCrcA64 sf sz ≠ .nop := by
  unfold State.checksCrcA64 State.checkCrcExt
  cases s.cfg.haveCrc <;> simp
  split
  · simp
  · split <;> simp

/-! ### Fetch and step -/

/-- A fetch that gives a word found `pc` aligned and four bytes of the text there. -/
theorem State.fetch_ok (s : State) (w : Word) (h : s.fetch = .ok w) :
    s.pcOf % View.fetchAlign s.view = 0 ∧ ∃ b0 b1 b2 b3, s.textByte s.pcOf = some b0 ∧
      s.textByte (s.pcOf + 1) = some b1 ∧ s.textByte (s.pcOf + 2) = some b2 ∧ s.textByte (s.pcOf + 3) = some b3 ∧
      w = wordOfBytes s.view b0 b1 b2 b3 := by
  unfold State.fetch at h
  simp only at h
  split at h
  · rename_i ha
    split at h
    · rename_i b0 b1 b2 b3 h0 h1 h2 h3
      injection h with h
      exact ⟨ha, b0, b1, b2, b3, h0, h1, h2, h3, h.symm⟩
    · split at h <;> cases h
  · split at h <;> cases h

/-- A byte of the text lies inside its range (R45). -/
theorem State.textByte_range (s : State) (addr : Nat) (b : Byte) (h : s.textByte addr = some b) :
    s.textBase ≤ addr ∧ addr < s.textEnd ∧ s.mem.read addr = some b := by
  unfold State.textByte at h
  split at h
  · rename_i hr
    exact ⟨hr.1, hr.2, h⟩
  · cases h

/-- A decoded instruction is the row the word stands for, and the configuration admits it. -/
theorem decode_ok (cfg : Config) (v : View) (w : Word) (i : Instr) (h : decode cfg v w = .ok i) :
    decodeWord v w = .ok i ∧ i.admitted cfg = true := by
  unfold decode at h
  split at h
  · cases h
  · split at h
    · injection h with h
      subst h
      exact ⟨‹_›, ‹_›⟩
    · cases h

/-- A step that answers a next state ran one instruction, fetched and decoded in a running state with a good launch. -/
theorem step_next (s t : State) (h : step s = .next t) :
    s.mark = .running ∧ s.launchRefusal = none ∧
      ∃ w i, s.fetch = .ok w ∧ decode s.cfg s.view w = .ok i ∧ exec i s = .next t := by
  unfold step at h
  split at h
  · cases h
  · cases h
  · rename_i hm
    split at h
    · cases h
    · rename_i hl
      split at h
      · cases h
      · rename_i w hw
        split at h
        · cases h
        · rename_i i hi
          exact ⟨hm, hl, w, i, hw, hi, h⟩

/-- A step of a running state that faults ran one instruction, fetched and decoded. -/
theorem step_fault (s : State) (f : Fault) (hm : s.mark = .running) (h : step s = .fault f) :
    ∃ w i, s.fetch = .ok w ∧ decode s.cfg s.view w = .ok i ∧ exec i s = .fault f := by
  unfold step at h
  rw [hm] at h
  simp only at h
  split at h
  · cases h
  · split at h
    · cases h
    · rename_i w hw
      split at h
      · cases h
      · rename_i i hi
        exact ⟨w, i, hw, hi, h⟩

/-- A launch that is not refused has its view and a text below the top of the address space (R45, R131). -/
theorem State.launchRefusal_none (s : State) (h : s.launchRefusal = none) :
    s.viewExists = true ∧ s.textEnd < View.addressLimit s.view := by
  unfold State.launchRefusal at h
  split at h
  · cases h
  · rename_i hv
    split at h
    · cases h
    · exact ⟨by simpa using hv, by omega⟩

end Sys2Proof.Machine
end

