-- ==== Sys2Proof/Laws/PerInstr.lean ====
section
/-! SUPPORT. Per-instruction family MatchesRow: the encoder, written from the diagrams, agrees with the masks and matches of
spec/opcode_table.json (R52, R55, R57, R102). -/

namespace Sys2Proof.Laws.MatchesRow

/-- The masked word of an instruction is its row's match. -/
def Statement (i : Instr) : Prop := encode i &&& i.patternMask = i.patternMatch

theorem addExt32 (rm : BitVec 5) (option : ExtendType) (imm3 : BitVec 3) (rn rd : BitVec 5) :
    Statement (.addExt32 rm option imm3 rn rd) :=
  (encodeAddExt_masked ..).trans rfl

theorem addExt64 (rm : BitVec 5) (option : ExtendType) (imm3 : BitVec 3) (rn rd : BitVec 5) :
    Statement (.addExt64 rm option imm3 rn rd) :=
  (encodeAddExt_masked ..).trans rfl

theorem crc32bA1 (cond rn rd : BitVec 4) (sbzHi : BitVec 2) (sbz8 : BitVec 1) (rm : BitVec 4) :
    Statement (.crc32bA1 cond rn rd sbzHi sbz8 rm) :=
  (encodeA1_masked ..).trans rfl

theorem crc32hA1 (cond rn rd : BitVec 4) (sbzHi : BitVec 2) (sbz8 : BitVec 1) (rm : BitVec 4) :
    Statement (.crc32hA1 cond rn rd sbzHi sbz8 rm) :=
  (encodeA1_masked ..).trans rfl

theorem crc32wA1 (cond : BitVec 4) (size64 : Bool) (rn rd : BitVec 4) (sbzHi : BitVec 2) (sbz8 : BitVec 1)
    (rm : BitVec 4) : Statement (.crc32wA1 cond size64 rn rd sbzHi sbz8 rm) :=
  (encodeA1_masked ..).trans (by cases size64 <;> rfl)

theorem crc32bT1 (rn rd rm : BitVec 4) : Statement (.crc32bT1 rn rd rm) :=
  (encodeT1_masked ..).trans rfl

theorem crc32hT1 (rn rd rm : BitVec 4) : Statement (.crc32hT1 rn rd rm) :=
  (encodeT1_masked ..).trans rfl

theorem crc32wT1 (rn rd : BitVec 4) (size64 : Bool) (rm : BitVec 4) : Statement (.crc32wT1 rn rd size64 rm) :=
  (encodeT1_masked ..).trans (by cases size64 <;> rfl)

theorem crc32cbA1 (cond rn rd : BitVec 4) (sbzHi : BitVec 2) (sbz8 : BitVec 1) (rm : BitVec 4) :
    Statement (.crc32cbA1 cond rn rd sbzHi sbz8 rm) :=
  (encodeA1_masked ..).trans rfl

theorem crc32chA1 (cond rn rd : BitVec 4) (sbzHi : BitVec 2) (sbz8 : BitVec 1) (rm : BitVec 4) :
    Statement (.crc32chA1 cond rn rd sbzHi sbz8 rm) :=
  (encodeA1_masked ..).trans rfl

theorem crc32cwA1 (cond : BitVec 4) (size64 : Bool) (rn rd : BitVec 4) (sbzHi : BitVec 2) (sbz8 : BitVec 1)
    (rm : BitVec 4) : Statement (.crc32cwA1 cond size64 rn rd sbzHi sbz8 rm) :=
  (encodeA1_masked ..).trans (by cases size64 <;> rfl)

theorem crc32cbT1 (rn rd rm : BitVec 4) : Statement (.crc32cbT1 rn rd rm) :=
  (encodeT1_masked ..).trans rfl

theorem crc32chT1 (rn rd rm : BitVec 4) : Statement (.crc32chT1 rn rd rm) :=
  (encodeT1_masked ..).trans rfl

theorem crc32cwT1 (rn rd : BitVec 4) (size64 : Bool) (rm : BitVec 4) : Statement (.crc32cwT1 rn rd size64 rm) :=
  (encodeT1_masked ..).trans (by cases size64 <;> rfl)

theorem crc32cbA64 (sf : Bool) (rm rn rd : BitVec 5) : Statement (.crc32cbA64 sf rm rn rd) :=
  (encodeCrcA64_masked ..).trans rfl

theorem crc32chA64 (sf : Bool) (rm rn rd : BitVec 5) : Statement (.crc32chA64 sf rm rn rd) :=
  (encodeCrcA64_masked ..).trans rfl

theorem crc32cwA64 (sf : Bool) (rm rn rd : BitVec 5) : Statement (.crc32cwA64 sf rm rn rd) :=
  (encodeCrcA64_masked ..).trans rfl

theorem crc32cxA64 (sf : Bool) (rm rn rd : BitVec 5) : Statement (.crc32cxA64 sf rm rn rd) :=
  (encodeCrcA64_masked ..).trans rfl

end Sys2Proof.Laws.MatchesRow
end

