-- ==== Sys2Proof/Tests/Slice0.lean ====
section
/-! SUPPORT. Tests of the model. Expected results come from spec/95_test_vectors.md or are words written out from the
diagrams of spec/30_encoding.md and spec/42_a64_crc32c_named_in_title.md. The `witness_` theorems show, for a statement with
hypotheses, a state and operands that meet them together. -/

namespace Sys2Proof.Tests

open Sys2Proof.Machine Sys2Proof.Statements

set_option Elab.async false

/-! ### Helpers -/

def nextOf : Result → Option State
  | .next s => some s
  | .fault _ => none
  | .refused _ => none

def faultOf : Result → Option Fault
  | .next _ => none
  | .fault f => some f
  | .refused _ => none

def refusalOf : Result → Option Refusal
  | .next _ => none
  | .fault _ => none
  | .refused r => some r

theorem next_of_nextOf (o : Result) (h : (nextOf o).isSome = true) : ∃ t, o = .next t := by
  cases o with
  | next t => exact ⟨t, rfl⟩
  | fault f => cases h
  | refused r => cases h

theorem fault_of_faultOf (o : Result) (f : Fault) (h : faultOf o = some f) : o = .fault f := by
  cases o with
  | next t => cases h
  | fault g => injection h with h; rw [h]
  | refused r => cases h

theorem refused_of_refusalOf (o : Result) (r : Refusal) (h : refusalOf o = some r) : o = .refused r := by
  cases o with
  | next t => cases h
  | fault g => cases h
  | refused q => injection h with h; rw [h]

/-- Reset with three `x` registers, the stack pointer and the A64 flags set. -/
def st64 (x0 x1 x2 sp : DWord) : State :=
  { State.reset with
    a64 :=
      { State.reset.a64 with
        x := ((State.reset.a64.x.set 0 x0).set 1 x1).set 2 x2
        sp := sp
        flags := { n := true, z := false, c := true, v := false } } }

/-- Reset in an AArch32 view with `r[0]`, `r[1]`, `r[3]`, `r[4]` set. -/
def st32 (v : View) (r0 r1 r3 r4 : Word) : State :=
  { State.reset with
    view := v
    a32 := { State.reset.a32 with r := (((State.reset.a32.r.set 0 r0).set 1 r1).set 3 r3).set 4 r4 } }

/-- `s` with both CU parameters set. -/
def withCu (s : State) (size : CuSize64) (cond : CuCond) : State :=
  { s with cfg := { s.cfg with cuSize64 := size, cuCond := cond } }

/-- `s` without the CRC extension. -/
def noCrc (s : State) : State := { s with cfg := { s.cfg with haveCrc := false } }

/-- `s` inside an IT block. -/
def inIt (s : State) : State := { s with a32 := { s.a32 with inItBlock := true } }

/-- A launch of the given words at `base` in view `v`, with every row admitted. -/
def launch (v : View) (base : Nat) (words : List Word) : State :=
  { State.reset with
    view := v
    cfg := { State.reset.cfg with admitTitleCrc32c := true, admitA32Crc32c := true }
    textBase := base
    textWords := words.length
    mem := (words.flatMap (bytesOfWord v)).zipIdx.map fun p => (base + p.2, p.1)
    a64 := { State.reset.a64 with pc := BitVec.ofNat 64 base }
    a32 := { State.reset.a32 with pc := BitVec.ofNat 32 base } }

/-- What `x[d]` holds after the step, with `pc`. -/
def x64 (d : Nat) (o : Result) : Option (DWord × DWord) :=
  (nextOf o).map fun t => (t.a64.x.toList.getD d 0#64, t.a64.pc)

/-- What `r[d]` holds after the step, with `pc`. -/
def r32 (d : Nat) (o : Result) : Option (Word × Word) :=
  (nextOf o).map fun t => (t.a32.r.toList.getD d 0#32, t.a32.pc)

/-! ### Well-formedness: the one check, `cond` = 1111 (R54), in each row that has it -/

theorem test_cond_1111_ill_formed :
    (Instr.crc32bA1 15#4 0#4 0#4 0#2 0#1 1#4).wellFormed = false ∧
    (Instr.crc32hA1 15#4 0#4 0#4 0#2 0#1 1#4).wellFormed = false ∧
    (Instr.crc32wA1 15#4 false 0#4 0#4 0#2 0#1 1#4).wellFormed = false ∧
    (Instr.crc32cbA1 15#4 0#4 0#4 0#2 0#1 1#4).wellFormed = false ∧
    (Instr.crc32chA1 15#4 0#4 0#4 0#2 0#1 1#4).wellFormed = false ∧
    (Instr.crc32cwA1 15#4 true 0#4 0#4 0#2 0#1 1#4).wellFormed = false := by decide

theorem test_cond_1101_well_formed : (Instr.crc32bA1 13#4 0#4 0#4 0#2 0#1 1#4).wellFormed = true := by decide

/-! ### Decoding: one word a constructor, each group of bits a field of the diagram -/

-- R51: sf op S 01011 00 1 Rm option imm3 Rn Rd
theorem test_decode_addExt32 :
    decodeWord .a64 (0b0#1 ++ 0b0#1 ++ 0b0#1 ++ 0b01011#5 ++ 0b00#2 ++ 0b1#1 ++ 0b00010#5 ++ 0b100#3 ++ 0b000#3 ++
      0b00001#5 ++ 0b00000#5) = .ok (.addExt32 2#5 .sxtb 0#3 1#5 0#5) := by decide +kernel

theorem test_decode_addExt64 :
    decodeWord .a64 (0b1#1 ++ 0b0#1 ++ 0b0#1 ++ 0b01011#5 ++ 0b00#2 ++ 0b1#1 ++ 0b00001#5 ++ 0b110#3 ++ 0b011#3 ++
      0b11111#5 ++ 0b00000#5) = .ok (.addExt64 1#5 .sxtw 3#3 31#5 0#5) := by decide +kernel

-- R54: cond 00010 sz 0 Rn Rd (0)(0) C (0) 0100 Rm
theorem test_decode_crc32bA1 :
    decodeWord .a32 (0b1110#4 ++ 0b00010#5 ++ 0b00#2 ++ 0b0#1 ++ 0b0011#4 ++ 0b0010#4 ++ 0b00#2 ++ 0b0#1 ++ 0b0#1 ++
      0b0100#4 ++ 0b0100#4) = .ok (.crc32bA1 14#4 3#4 2#4 0#2 0#1 4#4) := by decide +kernel

theorem test_decode_crc32hA1 :
    decodeWord .a32 (0b1110#4 ++ 0b00010#5 ++ 0b01#2 ++ 0b0#1 ++ 0b0011#4 ++ 0b0010#4 ++ 0b10#2 ++ 0b0#1 ++ 0b1#1 ++
      0b0100#4 ++ 0b0100#4) = .ok (.crc32hA1 14#4 3#4 2#4 2#2 1#1 4#4) := by decide +kernel

theorem test_decode_crc32wA1 :
    decodeWord .a32 (0b0000#4 ++ 0b00010#5 ++ 0b10#2 ++ 0b0#1 ++ 0b0011#4 ++ 0b0010#4 ++ 0b00#2 ++ 0b0#1 ++ 0b0#1 ++
      0b0100#4 ++ 0b0100#4) = .ok (.crc32wA1 0#4 false 3#4 2#4 0#2 0#1 4#4) ∧
    decodeWord .a32 (0b1110#4 ++ 0b00010#5 ++ 0b11#2 ++ 0b0#1 ++ 0b0011#4 ++ 0b0010#4 ++ 0b00#2 ++ 0b0#1 ++ 0b0#1 ++
      0b0100#4 ++ 0b0100#4) = .ok (.crc32wA1 14#4 true 3#4 2#4 0#2 0#1 4#4) := by decide +kernel

theorem test_decode_crc32cA1 :
    decodeWord .a32 (0b1110#4 ++ 0b00010#5 ++ 0b00#2 ++ 0b0#1 ++ 0b0011#4 ++ 0b0010#4 ++ 0b00#2 ++ 0b1#1 ++ 0b0#1 ++
      0b0100#4 ++ 0b0100#4) = .ok (.crc32cbA1 14#4 3#4 2#4 0#2 0#1 4#4) ∧
    decodeWord .a32 (0b1110#4 ++ 0b00010#5 ++ 0b01#2 ++ 0b0#1 ++ 0b0011#4 ++ 0b0010#4 ++ 0b00#2 ++ 0b1#1 ++ 0b0#1 ++
      0b0100#4 ++ 0b0100#4) = .ok (.crc32chA1 14#4 3#4 2#4 0#2 0#1 4#4) ∧
    decodeWord .a32 (0b1110#4 ++ 0b00010#5 ++ 0b10#2 ++ 0b0#1 ++ 0b0011#4 ++ 0b0010#4 ++ 0b00#2 ++ 0b1#1 ++ 0b0#1 ++
      0b0100#4 ++ 0b0100#4) = .ok (.crc32cwA1 14#4 false 3#4 2#4 0#2 0#1 4#4) := by decide +kernel

-- R56: 111110101 10 C Rn | 1111 Rd 10 sz Rm
theorem test_decode_crc32T1 :
    decodeWord .t32 (0b111110101#9 ++ 0b10#2 ++ 0b0#1 ++ 0b0011#4 ++ 0b1111#4 ++ 0b0010#4 ++ 0b10#2 ++ 0b00#2 ++
      0b0100#4) = .ok (.crc32bT1 3#4 2#4 4#4) ∧
    decodeWord .t32 (0b111110101#9 ++ 0b10#2 ++ 0b0#1 ++ 0b0011#4 ++ 0b1111#4 ++ 0b0010#4 ++ 0b10#2 ++ 0b01#2 ++
      0b0100#4) = .ok (.crc32hT1 3#4 2#4 4#4) ∧
    decodeWord .t32 (0b111110101#9 ++ 0b10#2 ++ 0b0#1 ++ 0b0011#4 ++ 0b1111#4 ++ 0b0010#4 ++ 0b10#2 ++ 0b10#2 ++
      0b0100#4) = .ok (.crc32wT1 3#4 2#4 false 4#4) := by decide +kernel

theorem test_decode_crc32cT1 :
    decodeWord .t32 (0b111110101#9 ++ 0b10#2 ++ 0b1#1 ++ 0b0011#4 ++ 0b1111#4 ++ 0b0010#4 ++ 0b10#2 ++ 0b00#2 ++
      0b0100#4) = .ok (.crc32cbT1 3#4 2#4 4#4) ∧
    decodeWord .t32 (0b111110101#9 ++ 0b10#2 ++ 0b1#1 ++ 0b0011#4 ++ 0b1111#4 ++ 0b0010#4 ++ 0b10#2 ++ 0b01#2 ++
      0b0100#4) = .ok (.crc32chT1 3#4 2#4 4#4) ∧
    decodeWord .t32 (0b111110101#9 ++ 0b10#2 ++ 0b1#1 ++ 0b0011#4 ++ 0b1111#4 ++ 0b0010#4 ++ 0b10#2 ++ 0b10#2 ++
      0b0100#4) = .ok (.crc32cwT1 3#4 2#4 false 4#4) := by decide +kernel

-- R102: sf 0 0 11010110 Rm 010 1 sz Rn Rd
theorem test_decode_crc32cA64 :
    decodeWord .a64 (0b0#1 ++ 0b00#2 ++ 0b11010110#8 ++ 0b00101#5 ++ 0b010#3 ++ 0b1#1 ++ 0b00#2 ++ 0b00100#5 ++
      0b00011#5) = .ok (.crc32cbA64 false 5#5 4#5 3#5) ∧
    decodeWord .a64 (0b0#1 ++ 0b00#2 ++ 0b11010110#8 ++ 0b00101#5 ++ 0b010#3 ++ 0b1#1 ++ 0b01#2 ++ 0b00100#5 ++
      0b00011#5) = .ok (.crc32chA64 false 5#5 4#5 3#5) ∧
    decodeWord .a64 (0b0#1 ++ 0b00#2 ++ 0b11010110#8 ++ 0b00101#5 ++ 0b010#3 ++ 0b1#1 ++ 0b10#2 ++ 0b00100#5 ++
      0b00011#5) = .ok (.crc32cwA64 false 5#5 4#5 3#5) ∧
    decodeWord .a64 (0b1#1 ++ 0b00#2 ++ 0b11010110#8 ++ 0b00101#5 ++ 0b010#3 ++ 0b1#1 ++ 0b11#2 ++ 0b00100#5 ++
      0b00011#5) = .ok (.crc32cxA64 true 5#5 4#5 3#5) := by decide +kernel

-- R63 and spec/95 2.2, 2.3: neighbours of the rows
theorem test_decode_neighbours :
    decodeWord .a64 0x4B220020#32 = .error .notShown ∧ decodeWord .a64 0x2B220020#32 = .error .notShown ∧
    decodeWord .a64 0x0B620020#32 = .error .notShown ∧ decodeWord .a64 0x1AC14000#32 = .error .notShown ∧
    decodeWord .a64 0xD503201F#32 = .error .notShown ∧ decodeWord .a32 0xF1000041#32 = .error .notShown ∧
    decodeWord .t32 0xFAC0F041#32 = .error .notShown ∧ decodeWord .t32 0xFAC0E081#32 = .error .notShown := by
  decide +kernel

-- R6, R63, R100: the two switches
theorem test_decode_switches :
    decode State.reset.cfg .a32 0xE1000241#32 = .error .notShown ∧
    decode State.reset.cfg .t32 0xFAD0F081#32 = .error .notShown ∧
    decode State.reset.cfg .a64 0x1AC15000#32 = .error .notShown ∧
    decode (launch .a64 0 []).cfg .a64 0x1AC15000#32 = .ok (.crc32cbA64 false 1#5 0#5 0#5) := by decide +kernel

-- R42: hw1 at the lower address, each halfword little-endian
theorem test_bytes_of_T32_pair : bytesOfWord .t32 0xFAC3F294#32 = [0xC3#8, 0xFA#8, 0x94#8, 0xF2#8] := by decide +kernel

theorem test_bytes_of_A64_word : bytesOfWord .a64 0x8B21CFE0#32 = [0xE0#8, 0xCF#8, 0x21#8, 0x8B#8] := by decide +kernel

/-! ### ADD (spec/95_test_vectors.md 2.1) -/

theorem test_addExt32_sxtb :
    x64 0 (exec (.addExt32 2#5 .sxtb 0#3 1#5 0#5) (st64 7 0x0000000100000010 0xFEDCBA98F654B2C1 0)) =
      some (0x00000000FFFFFFD1, 4) := by decide +kernel

-- row 7: WSP written, upper halves ignored and cleared
theorem test_addExt32_wsp :
    (nextOf (exec (.addExt32 2#5 .uxtw 2#3 1#5 31#5)
      (st64 7 0xFFFFFFFF00001000 0xFFFFFFFF00000004 0xFFFFFFFFFFFFFFFF))).map (fun t => (t.a64.sp, t.a64.flags)) =
      some (0x1010, { n := true, z := false, c := true, v := false }) := by decide +kernel

theorem test_addExt64_sxtx_4 :
    x64 0 (exec (.addExt64 2#5 .sxtx 4#3 1#5 0#5) (st64 7 0x0000000100000010 0xFEDCBA98F654B2C1 0)) =
      some (0xEDCBA990654B2C20, 4) := by decide +kernel

-- rows 4 and 9: Rm = 31 reads zero, and imm3 = 5
theorem test_addExt64_corners :
    x64 0 (exec (.addExt64 31#5 .uxtb 0#3 1#5 0#5) (st64 7 0x1122334455667788 0 0xAAAA0000)) =
      some (0x1122334455667788, 4) ∧
    faultOf (exec (.addExt64 2#5 .uxtx 5#3 1#5 0#5) (st64 7 1 1 0)) = some (.undefined 0x8B227420#32) := by decide +kernel

-- R17, V without C: the largest positive plus one
theorem test_addWithCarry_flags :
    addWithCarry 0x7F#8 0x01#8 false = (0x80#8, { n := true, z := false, c := false, v := true }) ∧
    addWithCarry 0xFF#8 0x00#8 true = (0x00#8, { n := false, z := true, c := true, v := false }) := by decide +kernel

/-! ### CRC in the AArch32 views (spec/95_test_vectors.md 2.2, 2.3) -/

theorem test_crc32bA1 :
    r32 2 (exec (.crc32bA1 14#4 3#4 2#4 0#2 0#1 4#4) (st32 .a32 0 0 0x12345678 0xA1B2C3D4)) =
      some (0xDF72DB95, 4) := by decide +kernel

theorem test_crc32hA1 :
    r32 2 (exec (.crc32hA1 14#4 3#4 2#4 0#2 0#1 4#4) (st32 .a32 0 0 0x12345678 0xA1B2C3D4)) =
      some (0x82D7861A, 4) := by decide +kernel

theorem test_crc32wA1 :
    r32 2 (exec (.crc32wA1 14#4 false 3#4 2#4 0#2 0#1 4#4) (st32 .a32 0 0 0x12345678 0xA1B2C3D4)) =
      some (0xC3D4015D, 4) := by decide +kernel

-- 0xE1600041 by default, under Nop and under Size32
theorem test_crc32wA1_size64 :
    faultOf (exec (.crc32wA1 14#4 true 0#4 0#4 0#2 0#1 1#4) (st32 .a32 0x12345678 0xA1B2C3D4 0 0)) =
      some (.unpredictable .size64) ∧
    r32 0 (exec (.crc32wA1 14#4 true 0#4 0#4 0#2 0#1 1#4)
      (withCu (st32 .a32 0x12345678 0xA1B2C3D4 0 0) (.always .nop) .defaultTreatment)) = some (0x12345678, 4) ∧
    r32 0 (exec (.crc32wA1 14#4 true 0#4 0#4 0#2 0#1 1#4)
      (withCu (st32 .a32 0x12345678 0xA1B2C3D4 0 0) (.always .size32) .defaultTreatment)) = some (0xC3D4015D, 4) := by
  decide +kernel

-- 0x01000041: cond = EQ with Z clear, by default, Unconditional and Conditional
theorem test_crc32bA1_cond :
    faultOf (exec (.crc32bA1 0#4 0#4 0#4 0#2 0#1 1#4) (st32 .a32 0xFFFFFFFF 0x31 0 0)) = some (.unpredictable .cond) ∧
    r32 0 (exec (.crc32bA1 0#4 0#4 0#4 0#2 0#1 1#4)
      (withCu (st32 .a32 0xFFFFFFFF 0x31 0 0) .defaultTreatment (.always .unconditional))) = some (0x7C231048, 4) ∧
    r32 0 (exec (.crc32bA1 0#4 0#4 0#4 0#2 0#1 1#4)
      (withCu (st32 .a32 0xFFFFFFFF 0x31 0 0) .defaultTreatment (.always .conditional))) = some (0xFFFFFFFF, 4) := by
  decide +kernel

-- R116: 0xE16F0041 without the extension, "(0)" bits, register 15
theorem test_A1_checks :
    faultOf (exec (.crc32wA1 14#4 true 15#4 0#4 0#2 0#1 1#4) (noCrc (st32 .a32 0 0 0 0))) = some (.undefined 0xE16F0041#32) ∧
    faultOf (exec (.crc32bA1 14#4 0#4 0#4 0#2 1#1 1#4) (st32 .a32 0 0 0 0)) = some (.unpredictable .sbz) ∧
    faultOf (exec (.crc32bA1 14#4 0#4 0#4 2#2 0#1 1#4) (st32 .a32 0 0 0 0)) = some (.unpredictable .sbz) ∧
    faultOf (exec (.crc32bA1 14#4 0#4 15#4 0#2 0#1 1#4) (st32 .a32 0 0 0 0)) = some (.unpredictable .r15) := by
  decide +kernel

-- in an IT block, with and without the extension; and without it outside one
theorem test_T1_checks :
    faultOf (exec (.crc32bT1 0#4 0#4 1#4) (inIt (st32 .t32 0 0 0 0))) = some (.unpredictable .inIt) ∧
    faultOf (exec (.crc32bT1 0#4 0#4 1#4) (inIt (noCrc (st32 .t32 0 0 0 0)))) = some (.unpredictable .inIt) ∧
    faultOf (exec (.crc32bT1 0#4 0#4 1#4) (noCrc (st32 .t32 0 0 0 0))) = some (.undefined 0xFAC0F081#32) := by decide +kernel

theorem test_crc32bT1 :
    r32 0 (exec (.crc32bT1 0#4 0#4 1#4) (st32 .t32 0xFFFFFFFF 0x31 0 0)) = some (0x7C231048, 4) := by decide +kernel

theorem test_crc32hT1 :
    r32 2 (exec (.crc32hT1 3#4 2#4 4#4) (st32 .t32 0 0 0 0xABCD0001)) = some (0x191B3141, 4) := by decide +kernel

theorem test_crc32wT1 :
    r32 0 (exec (.crc32wT1 0#4 0#4 false 1#4) (st32 .t32 0xFFFFFFFF 0xFFFFFFFF 0 0)) = some (0, 4) := by decide +kernel

theorem test_crc32cbA1 :
    r32 0 (exec (.crc32cbA1 14#4 0#4 0#4 0#2 0#1 1#4) (st32 .a32 0 0x80 0 0)) = some (0x82F63B78, 4) := by
  decide +kernel

theorem test_crc32chA1 :
    r32 0 (exec (.crc32chA1 14#4 0#4 0#4 0#2 0#1 1#4) (st32 .a32 0 1 0 0)) = some (0x13A29877, 4) := by decide +kernel

theorem test_crc32cwA1 :
    r32 0 (exec (.crc32cwA1 14#4 false 0#4 0#4 0#2 0#1 1#4) (st32 .a32 0 1 0 0)) = some (0xDD45AAB8, 4) := by
  decide +kernel

theorem test_crc32cbT1 :
    r32 0 (exec (.crc32cbT1 0#4 0#4 1#4) (st32 .t32 0x12345678 0xA1B2C3D4 0 0)) = some (0xEF1A4E20, 4) := by
  decide +kernel

theorem test_crc32chT1 :
    r32 0 (exec (.crc32chT1 0#4 0#4 1#4) (st32 .t32 0x12345678 0xA1B2C3D4 0 0)) = some (0xF08F41A0, 4) := by
  decide +kernel

theorem test_crc32cwT1 :
    r32 0 (exec (.crc32cwT1 0#4 0#4 false 1#4) (st32 .t32 0x12345678 0xA1B2C3D4 0 0)) = some (0xFBB099FA, 4) := by
  decide +kernel

/-! ### CRC32C in the A64 view (spec/95_test_vectors.md 2.3) -/

theorem test_crc32cbA64 :
    x64 0 (exec (.crc32cbA64 false 1#5 0#5 0#5) (st64 0xFFFFFFFF 0x31 0 0)) = some (0x6F0A661C, 4) := by decide +kernel

theorem test_crc32chA64 :
    x64 2 (exec (.crc32chA64 false 1#5 0#5 2#5)
      (st64 0xDEADBEEF12345678 0x9ABCDEF0A1B2C3D4 0xFFFFFFFFFFFFFFFF 0)) = some (0xF08F41A0, 4) := by decide +kernel

theorem test_crc32cwA64 :
    x64 2 (exec (.crc32cwA64 false 1#5 0#5 2#5)
      (st64 0xDEADBEEF12345678 0x9ABCDEF0A1B2C3D4 0xFFFFFFFFFFFFFFFF 0)) = some (0xFBB099FA, 4) := by decide +kernel

theorem test_crc32cxA64 :
    x64 0 (exec (.crc32cxA64 true 1#5 0#5 0#5) (st64 0xFFFFFFFF 0x3837363534333231 0 0)) = some (0x9F787F65, 4) := by
  decide +kernel

-- sf against sz, the absent extension, and WZR as destination
theorem test_crcA64_corners :
    faultOf (exec (.crc32cbA64 true 1#5 0#5 0#5) (st64 0 0 0 0)) = some (.undefined 0x9AC15000#32) ∧
    faultOf (exec (.crc32cxA64 false 1#5 0#5 0#5) (st64 0 0 0 0)) = some (.undefined 0x1AC15C00#32) ∧
    faultOf (exec (.crc32cbA64 false 0#5 0#5 0#5) (noCrc (st64 0 0 0 0))) = some (.undefined 0x1AC05000#32) ∧
    nextOf (exec (.crc32cbA64 false 1#5 0#5 31#5) (st64 1 2 3 4)) =
      some { st64 1 2 3 4 with a64 := { (st64 1 2 3 4).a64 with pc := 4 } } := by decide +kernel

/-! ### The CRC function -/

-- spec/95_test_vectors.md 2.3: size 64, which only the polynomial of CRC32C uses in an instruction
theorem test_crc_at_64 :
    crc 64 0x12345678#32 0x9ABCDEF0A1B2C3D4#64 true = 0xBA8516D2#32 ∧
    crc 64 0x12345678#32 0x9ABCDEF0A1B2C3D4#64 false = 0x8647BB2A#32 := by decide +kernel

-- R98 item 3 on the bit-serial form of R85
theorem test_crcSerial : crcSerial 8 0#32 0x80#8 false = 0xEDB88320#32 ∧ crcSerial 8 0#32 0x80#8 true = 0x82F63B78#32 := by
  decide +kernel

/-! ### The step -/

-- program P1, first word, and P5, P6: a fault and a refusal leave the registers and set the mark
theorem test_step_runs_the_word_at_pc :
    x64 0 (step { launch .a64 0x1000 [0x8B21CFE0#32] with
      a64 := { (launch .a64 0x1000 []).a64 with
        x := (launch .a64 0x1000 []).a64.x.set 1 0xFFFFFFFE, sp := 0x10000 } }) = some (0xFFF0, 0x1004) := by
  decide +kernel

theorem test_step_T32 : r32 0 (step (launch .t32 0x102 [0xFAC0F081#32])) = some (0, 0x106) := by decide +kernel

theorem test_fault_is_recorded :
    (launch .a64 0 [0x8B227420#32]).after = { launch .a64 0 [0x8B227420#32] with mark := .faulted (.undefined 0x8B227420#32) } := by
  decide +kernel

theorem test_refusal_is_recorded :
    (launch .a64 0 [0xD503201F#32]).after = { launch .a64 0 [0xD503201F#32] with mark := .refused .notShown } := by
  decide +kernel

-- reset with nothing loaded has ended (R133 with k = 0)
theorem test_reset_has_ended : refusalOf (step State.reset) = some .endOfRun ∧ State.reset.ended = true := by
  decide +kernel

-- the T32 row CRC32CW as the first instruction after reset
theorem test_withFetchWord : r32 0 (step (State.reset.withFetchWord 32 0xFAD0F0A1)) = some (0, 4) := by decide +kernel

theorem test_table_word_T32 : decodeTableWord 32 0xFAC3F294 = some (.crc32hT1 3#4 2#4 4#4) := by decide +kernel

/-! ### Witnesses: concrete states and operands that meet the hypotheses of the statements -/

/-- Register 14 is below 15, `imm3` 4 and 5 are either side of the check, 13 is the last `cond` with a row of its own. -/
theorem witness_operands :
    (4#3 : BitVec 3) ≤ 4#3 ∧ (4#3 : BitVec 3) < 5#3 ∧ (30#5 : BitVec 5) ≠ 31#5 ∧ (14#4 : BitVec 4) ≠ 15#4 ∧
    (13#4 : BitVec 4) ≠ 14#4 ∧ (13#4 : BitVec 4) ≠ 15#4 ∧ 0 < 1 ∧ 32 < 33 ∧ 31 < 32 ∧ 32 ≤ 32 := by decide

/-- AddExtended32Row, AddExtended64Row: every `imm3` is in one of the two clauses, and the masked words exist. -/
theorem witness_AddExtendedRows :
    (∀ imm3 : BitVec 3, (imm3 ≤ 4#3 ∧ ¬ 4#3 < imm3) ∨ (¬ imm3 ≤ 4#3 ∧ 4#3 < imm3)) ∧
    0x0B3FFFFF#32 &&& 0xFFE00000#32 = 0x0B200000#32 ∧ 0x8B3FFFFF#32 &&& 0xFFE00000#32 = 0x8B200000#32 := by decide

/-- AddVariantsAgree: shift 4 and destination 30. -/
theorem witness_AddVariantsAgree :
    (∃ t, exec (.addExt32 2#5 .sxtx 4#3 31#5 30#5) (st64 1 2 3 4) = .next t) ∧
    (∃ u, exec (.addExt64 2#5 .sxtx 4#3 31#5 30#5) (st64 1 2 3 4) = .next u) :=
  ⟨next_of_nextOf _ (by decide +kernel), next_of_nextOf _ (by decide +kernel)⟩

/-- Crc32A1Rows, Crc32cA1Rows, CondChoices, Size64Choices (A1), under each kind of setting. -/
theorem witness_A1 :
    (st32 .a32 0 0 0 0).cfg.haveCrc = true ∧ (st32 .a32 0 0 0 0).cfg.cuCond = .defaultTreatment ∧
    (st32 .a32 0 0 0 0).cfg.cuSize64 = .defaultTreatment ∧
    (∀ b c, (withCu (st32 .a32 0 0 0 0) b c).cfg.cuCond = c ∧ (withCu (st32 .a32 0 0 0 0) b c).cfg.cuSize64 = b ∧
      (withCu (st32 .a32 0 0 0 0) b c).cfg.haveCrc = true ∧ (withCu (st32 .a32 0 0 0 0) b c).a32.inItBlock = false) ∧
    0xE10EE04E#32 &&& 0xFFF00FF0#32 = 0xE1000040#32 ∧ (0xF1000041#32).extractLsb' 28 4 = 15#4 :=
  ⟨rfl, rfl, rfl, fun _ _ => ⟨rfl, rfl, rfl, rfl⟩, by decide, by decide⟩

/-- VaryingChoices. -/
theorem witness_varying :
    (withCu (st32 .a32 0 0 0 0) .varying .varying).cfg.cuSize64 = .varying ∧
    (withCu (st32 .a32 0 0 0 0) .varying .varying).cfg.cuCond = .varying ∧
    (withCu (st32 .a32 0 0 0 0) .varying .varying).cfg.haveCrc = true ∧
    (withCu (st32 .a32 0 0 0 0) .varying .varying).a32.inItBlock = false := ⟨rfl, rfl, rfl, rfl⟩

/-- Crc32T1Rows, Crc32cT1Rows, and the T1 forms of Size64Choices. -/
theorem witness_T1 :
    (st32 .t32 0 0 0 0).a32.inItBlock = false ∧ (st32 .t32 0 0 0 0).cfg.haveCrc = true ∧
    0xFACEFE8E#32 &&& 0xFFF0F0F0#32 = 0xFAC0F080#32 := by decide

/-- Crc32cA1Rows and Crc32cT1Rows: a C = 1 row does decode where the switch is on. -/
theorem witness_C_one :
    decode (launch .a32 0 []).cfg .a32 0xE1000241#32 = .ok (.crc32cbA1 14#4 0#4 0#4 0#2 0#1 1#4) ∧
    (Instr.crc32cbA1 14#4 0#4 0#4 0#2 0#1 1#4).isCOneRow = true ∧
    decode (launch .t32 0 []).cfg .t32 0xFAD0F081#32 = .ok (.crc32cbT1 0#4 0#4 1#4) ∧
    (Instr.crc32cbT1 0#4 0#4 1#4).isCOneRow = true := by decide +kernel

/-- Crc32cA64Rows, Crc32cA1Rows, Crc32cT1Rows: words that need a switch, admitted with it on and not with it off. -/
theorem witness_admission :
    decodeWord .a64 0x1AC15000#32 = .ok (.crc32cbA64 false 1#5 0#5 0#5) ∧
    (Instr.crc32cbA64 false 1#5 0#5 0#5).isTitleRow = true ∧
    0x1AC15000#32 &&& 0x7FE0F000#32 = 0x1AC05000#32 ∧ (0xE1000241#32).getLsbD 9 = true ∧
    (0xFAD0F081#32).getLsbD 20 = true ∧ (launch .a64 0 []).cfg.admitTitleCrc32c = true ∧
    (launch .a64 0 []).cfg.admitA32Crc32c = true ∧ State.reset.cfg.admitTitleCrc32c = false ∧
    State.reset.cfg.admitA32Crc32c = false := by decide +kernel

/-- Crc32cA64Rows. -/
theorem witness_A64_crc :
    (st64 0 0 0 0).cfg.haveCrc = true ∧ (noCrc (st64 0 0 0 0)).cfg.haveCrc = false ∧
    0x1ADF53FF#32 &&& 0xFFE0FC00#32 = 0x1AC05000#32 := by decide

/-- UndefinedExactlyWhen, UnpredictableExactlyWhen, DecodeOfEncode: well-formed instructions, with and without AArch32
fields, and both sides of each equivalence. -/
theorem witness_faults :
    (Instr.crc32wA1 13#4 true 15#4 14#4 3#2 1#1 0#4).wellFormed = true ∧
    (Instr.addExt64 0#5 .uxtx 5#3 0#5 0#5).wellFormed = true ∧
    exec (.addExt64 0#5 .uxtx 5#3 0#5 0#5) State.reset = .fault (.undefined 0x8B207400#32) ∧
    exec (.crc32bT1 0#4 0#4 1#4) (inIt State.reset) = .fault (.unpredictable .inIt) ∧
    exec (.crc32bA1 14#4 0#4 0#4 0#2 0#1 1#4) (noCrc State.reset) = .fault (.undefined 0xE1000041#32) :=
  ⟨by decide, by decide, fault_of_faultOf _ _ (by decide +kernel), fault_of_faultOf _ _ (by decide +kernel),
    fault_of_faultOf _ _ (by decide +kernel)⟩

/-- AddFrame, CrcA64Frame, CrcA32Frames: a next state with a plain destination and with number 31, and a NOP. -/
theorem witness_frames :
    (∃ t, exec (.addExt64 0#5 .uxtx 0#3 0#5 31#5) (st64 1 2 3 4) = .next t) ∧
    (∃ t, exec (.crc32cxA64 true 0#5 0#5 31#5) (st64 1 2 3 4) = .next t) ∧
    (∃ t, exec (.crc32bT1 0#4 14#4 1#4) (st32 .t32 1 2 3 4) = .next t) ∧
    (∃ t, exec (.crc32wA1 14#4 true 0#4 14#4 0#2 0#1 1#4)
      (withCu (st32 .a32 1 2 3 4) (.always .nop) .defaultTreatment) = .next t) :=
  ⟨next_of_nextOf _ (by decide +kernel), next_of_nextOf _ (by decide +kernel), next_of_nextOf _ (by decide +kernel),
    next_of_nextOf _ (by decide +kernel)⟩

/-- EncodeOfDecode, ViewsShareNoWord: words that decode, in each view. -/
theorem witness_decodes :
    decodeWord .a64 0x8B2203E0#32 = .ok (.addExt64 2#5 .uxtb 0#3 31#5 0#5) ∧
    decodeWord .a32 0xE1000D4F#32 = .ok (.crc32bA1 14#4 0#4 0#4 3#2 1#1 15#4) ∧
    decodeWord .t32 0xFADFFFBF#32 = .ok (.crc32cwT1 15#4 15#4 true 15#4) := by decide +kernel

/-- UnmatchedWordRefused: the word of program P6, in the A64 view with the title rows off. -/
theorem witness_UnmatchedWordRefused :
    let s := { launch .a64 0 [0xD503201F#32] with cfg := State.reset.cfg }
    s.mark = .running ∧ s.launchRefusal = none ∧ s.fetch = .ok 0xD503201F#32 ∧
      ∀ i : Instr, i.view = s.view → i.wellFormed = true → i.admitted s.cfg = true → encode i ≠ 0xD503201F#32 := by
  refine ⟨by decide +kernel, by decide +kernel, by decide +kernel, ?_⟩
  intro i hv hw ha h
  clear hw
  cases i
  case addExt32 rm option imm3 rn rd =>
    have hm := Laws.MatchesRow.addExt32 rm option imm3 rn rd
    rw [Laws.MatchesRow.Statement, h] at hm
    have hn : ¬ (0xD503201F#32 &&& 0xFFE00000#32 = 0x0B200000#32) := by decide
    exact hn hm
  case addExt64 rm option imm3 rn rd =>
    have hm := Laws.MatchesRow.addExt64 rm option imm3 rn rd
    rw [Laws.MatchesRow.Statement, h] at hm
    have hn : ¬ (0xD503201F#32 &&& 0xFFE00000#32 = 0x8B200000#32) := by decide
    exact hn hm
  all_goals first | exact Bool.false_ne_true ha | exact View.noConfusion hv

/-- FetchAssemblesBytes, StepRunsDecoded: the bytes at `pc`, in a little-endian view and in T32 (at an odd multiple of 2). -/
theorem witness_StepRunsDecoded :
    let s := launch .a64 0x1000 [0x8B21CFE0#32]
    let t := launch .t32 0x102 [0xFAC3F294#32]
    s.mark = .running ∧ s.launchRefusal = none ∧ bytesAtPc s 0xE0#8 0xCF#8 0x21#8 0x8B#8 ∧
    decodeBytes s.view [0xE0#8, 0xCF#8, 0x21#8, 0x8B#8] = .ok (.addExt64 1#5 .sxtw 3#3 31#5 0#5, []) ∧
    (Instr.addExt64 1#5 .sxtw 3#3 31#5 0#5).admitted s.cfg = true ∧
    t.mark = .running ∧ t.launchRefusal = none ∧ bytesAtPc t 0xC3#8 0xFA#8 0x94#8 0xF2#8 ∧
    decodeBytes t.view [0xC3#8, 0xFA#8, 0x94#8, 0xF2#8] = .ok (.crc32hT1 3#4 2#4 4#4, []) ∧
    (Instr.crc32hT1 3#4 2#4 4#4).admitted t.cfg = true := by
  unfold bytesAtPc
  decide +kernel

/-- `launch` of one word with the A64 `pc` moved. -/
def movedPc (pc : Nat) : State :=
  { launch .a64 0x1000 [0x8B21CFE0#32] with
    a64 := { (launch .a64 0x1000 []).a64 with pc := BitVec.ofNat 64 pc } }

/-- FetchOutsideTheText: misaligned inside the text, one below it, one past it, and beyond that. -/
theorem witness_FetchOutsideTheText :
    (∀ pc ∈ [0x1002, 0xFFC, 0x1004, 0x1008], (movedPc pc).mark = .running ∧ (movedPc pc).launchRefusal = none) ∧
    (movedPc 0x1002).pcOf % View.fetchAlign (movedPc 0x1002).view ≠ 0 ∧
    (movedPc 0xFFC).pcOf < (movedPc 0xFFC).textBase ∧
    (movedPc 0x1004).textEnd ≤ (movedPc 0x1004).pcOf ∧ (movedPc 0x1004).pcOf = (movedPc 0x1004).textEnd ∧
    (movedPc 0x1008).textEnd ≤ (movedPc 0x1008).pcOf ∧
    refusalOf (step (movedPc 0x1002)) = some .fetchOutsideText ∧
    refusalOf (step (movedPc 0x1004)) = some .endOfRun := by decide +kernel

/-- BadLaunchRefused: an AArch32 view of a PE without it, and texts that end at the top of either address space. -/
theorem witness_BadLaunchRefused :
    let noA32 := { launch .a32 0 [] with cfg := { State.reset.cfg with haveAArch32 := false } }
    let top64 := { launch .a64 (2 ^ 64 - 4) [] with textWords := 1 }
    let top32 := { launch .t32 (2 ^ 32 - 4) [] with textWords := 1 }
    noA32.mark = .running ∧ noA32.view ≠ .a64 ∧ noA32.cfg.haveAArch32 = false ∧
    top64.mark = .running ∧ top64.view = .a64 ∧ 2 ^ 64 ≤ top64.textBase + 4 * top64.textWords ∧
    top32.mark = .running ∧ top32.cfg.haveAArch32 = true ∧ 2 ^ 32 ≤ top32.textBase + 4 * top32.textWords := by
  decide +kernel

/-- OutcomeIsSticky: a step that faults, one that is refused, a marked state, and a step that completes. -/
theorem witness_OutcomeIsSticky :
    step (launch .a64 0 [0x8B227420#32]) = .fault (.undefined 0x8B227420#32) ∧
    step (launch .a64 0 [0xD503201F#32]) = .refused .notShown ∧ Refusal.notShown ≠ .endOfRun ∧
    (launch .a64 0 [0x8B227420#32]).after.mark ≠ .running ∧
    (∃ t, step (launch .a64 0 [0x8B227020#32]) = .next t) :=
  ⟨fault_of_faultOf _ _ (by decide +kernel), refused_of_refusalOf _ _ (by decide +kernel), by decide, by decide +kernel,
    next_of_nextOf _ (by decide +kernel)⟩

/-- FaultRecordsTheWord: program P5's second word, fetched and faulting. -/
theorem witness_FaultRecordsTheWord :
    (launch .a64 0 [0x8B227420#32]).mark = .running ∧ (launch .a64 0 [0x8B227420#32]).fetch = .ok 0x8B227420#32 ∧
    step (launch .a64 0 [0x8B227420#32]) = .fault (.undefined 0x8B227420#32) :=
  ⟨by decide +kernel, by decide +kernel, fault_of_faultOf _ _ (by decide +kernel)⟩

/-- PlacedWordRuns: in place inside a text, and as a text of its own after reset. -/
theorem witness_PlacedWordRuns :
    let i : Instr := .crc32cwT1 0#4 0#4 false 1#4
    let s := launch .a32 0x100 [0#32, 0#32]
    i.wellFormed = true ∧
    (s.admitRow i).pcOf % View.fetchAlign i.view = 0 ∧ (s.admitRow i).pcOf + 4 < View.addressLimit i.view ∧
    s.textEnd < View.addressLimit i.view ∧
    (State.reset.admitRow i).pcOf % View.fetchAlign i.view = 0 ∧
    (State.reset.admitRow i).pcOf + 4 < View.addressLimit i.view ∧
    State.reset.textEnd < View.addressLimit i.view := by decide +kernel

/-- StepKeepsRunInv, RunEndsAfterTheText: a launch state of each view's kind. -/
theorem witness_Launch_a64 : (launch .a64 0x1000 [0x8B227020#32, 0x1AC15000#32]).Launch :=
  ⟨⟨by decide +kernel, by decide +kernel, by decide +kernel, by decide +kernel, by decide +kernel, by decide +kernel,
    by decide +kernel, by decide +kernel⟩, by decide +kernel⟩

theorem witness_Launch_t32 : (launch .t32 0x102 [0xFAC0F081#32]).Launch :=
  ⟨⟨by decide +kernel, by decide +kernel, by decide +kernel, by decide +kernel, by decide +kernel, by decide +kernel,
    by decide +kernel, by decide +kernel⟩, by decide +kernel⟩

/-- StepKeepsRunInv, StepChangesOnlyRegisters: such a state steps. -/
theorem witness_step_next :
    (∃ t, step (launch .a64 0x1000 [0x8B227020#32, 0x1AC15000#32]) = .next t) ∧
    (∃ t, step (launch .t32 0x102 [0xFAC0F081#32]) = .next t) ∧ (launch .t32 0x102 [0xFAC0F081#32]).view ≠ .a64 :=
  ⟨next_of_nextOf _ (by decide +kernel), next_of_nextOf _ (by decide +kernel), by decide⟩

/-- RunEndsAfterTheText: one completed step, and a state of the invariant that has ended (the text of no words). -/
theorem witness_run :
    (∃ t, Sys2Proof.core.run 1 (launch .t32 0x102 [0xFAC0F081#32]) = .next t) ∧
    (launch .a64 0x1000 []).RunInv ∧ (launch .a64 0x1000 []).ended = true := by
  refine ⟨?_, ⟨by decide +kernel, by decide +kernel, by decide +kernel, by decide +kernel, by decide +kernel,
    by decide +kernel, by decide +kernel, by decide +kernel⟩, by decide +kernel⟩
  obtain ⟨t, h⟩ := next_of_nextOf (step (launch .t32 0x102 [0xFAC0F081#32])) (by decide +kernel)
  exact ⟨t, by simp [Host.Core.run, Sys2Proof.core, h]⟩

/-- ViewsDoNotTouchEachOther, StatusBitsNotConsulted. -/
theorem witness_views :
    State.reset.view = .a64 ∧ (launch .t32 0 []).view ≠ .a64 ∧ State.reset.cfg.cuCond ≠ .always .conditional ∧
    State.reset.cfg.cuCond ≠ .varying := by decide

/-- SourcesReadBeforeWrite: register 14 and register 30. -/
theorem witness_SourcesReadBeforeWrite :
    (st32 .a32 1 2 3 4).cfg.haveCrc = true ∧ (st32 .t32 1 2 3 4).a32.inItBlock = false ∧ (14#4 : BitVec 4) ≠ 15#4 ∧
    (30#5 : BitVec 5) ≠ 31#5 := by decide

end Sys2Proof.Tests
end

section
/-! SUPPORT. A word that decodes is the encoding of the instruction it decodes to: the fields a decoder reads and the
fixed bits it checks cover all 32 bits (spec/30_encoding.md R51, R54, R56, R102). -/

namespace Sys2Proof

/-- Two words that agree below bit `m` and on the field of `n` bits from there agree below bit `m + n`. -/
theorem extractLsb'_zero_add {x y : Word} {m : Nat} (n : Nat) (hlow : x.extractLsb' 0 m = y.extractLsb' 0 m)
    (hfield : x.extractLsb' m n = y.extractLsb' m n) : x.extractLsb' 0 (m + n) = y.extractLsb' 0 (m + n) := by
  apply BitVec.eq_of_getLsbD_eq
  intro k hk
  by_cases hkm : k < m
  · have hbit := congrArg (BitVec.getLsbD · k) hlow
    simpa [hkm, hk] using hbit
  · have hbit := congrArg (BitVec.getLsbD · (k - m)) hfield
    have hsub : k - m < n := by omega
    have hadd : m + (k - m) = k := by omega
    simpa [hsub, hadd, hk] using hbit

/-- Words that agree on all 32 bits, read as one field, are equal. -/
theorem eq_of_extractLsb'_zero_32 {x y : Word} (h : x.extractLsb' 0 32 = y.extractLsb' 0 32) : x = y := by
  simpa using h

/-! ### A word with the fixed bits of a format is that format's encoding of its own fields -/

/-- R51: bits 30:21 are fixed. -/
theorem encodeAddExt_of_fields {w : Word} {sf : BitVec 1} (hsf : w.extractLsb' 31 1 = sf)
    (hfix : w.extractLsb' 21 10 = 0b0001011001#10) :
    encodeAddExt sf (w.extractLsb' 16 5) (decodeRegExtend (w.extractLsb' 13 3)) (w.extractLsb' 10 3)
      (w.extractLsb' 5 5) (w.extractLsb' 0 5) = w := by
  obtain ⟨esf, efix, erm, eoption, eimm3, ern, erd⟩ := encodeAddExt_fields sf (w.extractLsb' 16 5) (w.extractLsb' 5 5)
    (w.extractLsb' 0 5) (decodeRegExtend (w.extractLsb' 13 3)) (w.extractLsb' 10 3)
  rw [encodeRegExtend_decode] at eoption
  have below10 := extractLsb'_zero_add 5 erd ern
  have below16 := extractLsb'_zero_add 3 (extractLsb'_zero_add 3 below10 eimm3) eoption
  have below31 := extractLsb'_zero_add 10 (extractLsb'_zero_add 5 below16 erm) (efix.trans hfix.symm)
  exact eq_of_extractLsb'_zero_32 (extractLsb'_zero_add 1 below31 (esf.trans hsf.symm))

/-- R102: bits 30:21 and 15:12 are fixed. -/
theorem encodeCrcA64_of_fields {w : Word} {sz : BitVec 2} (hsz : w.extractLsb' 10 2 = sz)
    (hfixHi : w.extractLsb' 21 10 = 0b0011010110#10) (hfixLo : w.extractLsb' 12 4 = 0b0101#4) :
    encodeCrcA64 (w.extractLsb' 31 1 == 1#1) (w.extractLsb' 16 5) sz (w.extractLsb' 5 5) (w.extractLsb' 0 5) = w := by
  obtain ⟨esf, efixHi, erm, efixLo, esz, ern, erd⟩ := encodeCrcA64_fields (w.extractLsb' 16 5) (w.extractLsb' 5 5)
    (w.extractLsb' 0 5) sz (w.extractLsb' 31 1 == 1#1)
  have hsf : ∀ b : BitVec 1, BitVec.ofBool (b == 1#1) = b := by decide
  have below10 := extractLsb'_zero_add 5 erd ern
  have below16 := extractLsb'_zero_add 4 (extractLsb'_zero_add 2 below10 (esz.trans hsz.symm)) (efixLo.trans hfixLo.symm)
  have below31 := extractLsb'_zero_add 10 (extractLsb'_zero_add 5 below16 erm) (efixHi.trans hfixHi.symm)
  exact eq_of_extractLsb'_zero_32 (extractLsb'_zero_add 1 below31 (esf.trans (hsf _)))

/-- R54: bits 27:23, 20 and 7:4 are fixed. -/
theorem encodeA1_of_fields {w : Word} {sz : BitVec 2} {c : BitVec 1} (hsz : w.extractLsb' 21 2 = sz)
    (hc : w.extractLsb' 9 1 = c) (hfix23 : w.extractLsb' 23 5 = 0b00010#5) (hfix20 : w.extractLsb' 20 1 = 0b0#1)
    (hfix4 : w.extractLsb' 4 4 = 0b0100#4) :
    encodeA1 (w.extractLsb' 28 4) sz (w.extractLsb' 16 4) (w.extractLsb' 12 4) (w.extractLsb' 10 2) c
      (w.extractLsb' 8 1) (w.extractLsb' 0 4) = w := by
  obtain ⟨econd, efix23, esz, efix20, ern, erd, esbzHi, ec, esbz8, efix4, erm⟩ := encodeA1_fields (w.extractLsb' 28 4)
    (w.extractLsb' 16 4) (w.extractLsb' 12 4) (w.extractLsb' 0 4) sz (w.extractLsb' 10 2) c (w.extractLsb' 8 1)
  have below8 := extractLsb'_zero_add 4 erm (efix4.trans hfix4.symm)
  have below10 := extractLsb'_zero_add 1 (extractLsb'_zero_add 1 below8 esbz8) (ec.trans hc.symm)
  have below16 := extractLsb'_zero_add 4 (extractLsb'_zero_add 2 below10 esbzHi) erd
  have below21 := extractLsb'_zero_add 1 (extractLsb'_zero_add 4 below16 ern) (efix20.trans hfix20.symm)
  have below28 := extractLsb'_zero_add 5 (extractLsb'_zero_add 2 below21 (esz.trans hsz.symm))
    (efix23.trans hfix23.symm)
  exact eq_of_extractLsb'_zero_32 (extractLsb'_zero_add 4 below28 econd)

/-- R56: bits 31:21 (`hw1`) and 15:12, 7:6 (`hw2`) are fixed. -/
theorem encodeT1_of_fields {w : Word} {sz : BitVec 2} {c : BitVec 1} (hsz : w.extractLsb' 4 2 = sz)
    (hc : w.extractLsb' 20 1 = c) (hfix21 : w.extractLsb' 21 11 = 0b11111010110#11)
    (hfix12 : w.extractLsb' 12 4 = 0b1111#4) (hfix6 : w.extractLsb' 6 2 = 0b10#2) :
    encodeT1 c (w.extractLsb' 16 4) (w.extractLsb' 8 4) sz (w.extractLsb' 0 4) = w := by
  obtain ⟨efix21, ec, ern, efix12, erd, efix6, esz, erm⟩ := encodeT1_fields (w.extractLsb' 16 4) (w.extractLsb' 8 4)
    (w.extractLsb' 0 4) sz c
  have below6 := extractLsb'_zero_add 2 erm (esz.trans hsz.symm)
  have below12 := extractLsb'_zero_add 4 (extractLsb'_zero_add 2 below6 (efix6.trans hfix6.symm)) erd
  have below20 := extractLsb'_zero_add 4 (extractLsb'_zero_add 4 below12 (efix12.trans hfix12.symm)) ern
  exact eq_of_extractLsb'_zero_32 (extractLsb'_zero_add 11 (extractLsb'_zero_add 1 below20 (ec.trans hc.symm))
    (efix21.trans hfix21.symm))

/-! ### The decoders: every field value of the row-picking bits leads to the row with those bits -/

theorem bitVec2_cases (b : BitVec 2) : b = 0b00#2 ∨ b = 0b01#2 ∨ b = 0b10#2 ∨ b = 0b11#2 := by
  revert b
  decide

theorem encode_of_decodeA64 {w : Word} {i : Instr} (h : decodeA64 w = .ok i) :
    i.view = .a64 ∧ i.wellFormed = true ∧ encode i = w := by
  unfold decodeA64 at h
  split at h
  next hfix =>
    obtain rfl : decodeAddExt w = i := Except.ok.inj h
    rcases BitVec.eq_zero_or_eq_one (w.extractLsb' 31 1) with hsf | hsf <;> simp only [decodeAddExt, hsf] <;>
      exact ⟨rfl, rfl, encodeAddExt_of_fields hsf hfix⟩
  next =>
    split at h
    next hfix =>
      obtain ⟨hfixHi, hfixLo⟩ := hfix
      obtain rfl : decodeCrcA64 w = i := Except.ok.inj h
      rcases bitVec2_cases (w.extractLsb' 10 2) with hsz | hsz | hsz | hsz <;> simp only [decodeCrcA64, hsz] <;>
        exact ⟨rfl, rfl, encodeCrcA64_of_fields hsz hfixHi hfixLo⟩
    next => cases h

theorem encode_of_decodeA32 {w : Word} {i : Instr} (h : decodeA32 w = .ok i) :
    i.view = .a32 ∧ i.wellFormed = true ∧ encode i = w := by
  simp only [decodeA32] at h
  split at h
  next hfix =>
    obtain ⟨hfix23, hfix20, hfix4, hcond⟩ := hfix
    have hwf : condEncodable (w.extractLsb' 28 4) = true := bne_iff_ne.mpr hcond
    rcases BitVec.eq_zero_or_eq_one (w.extractLsb' 9 1) with hc | hc <;>
      rcases bitVec2_cases (w.extractLsb' 21 2) with hsz | hsz | hsz | hsz
    all_goals
      rw [hc, hsz] at h
      obtain rfl := Except.ok.inj h
      exact ⟨rfl, hwf, encodeA1_of_fields hsz hc hfix23 hfix20 hfix4⟩
  next => cases h

theorem encode_of_decodeT32 {w : Word} {i : Instr} (h : decodeT32 w = .ok i) :
    i.view = .t32 ∧ i.wellFormed = true ∧ encode i = w := by
  simp only [decodeT32] at h
  split at h
  next hfix =>
    obtain ⟨hfix21, hfix12, hfix6⟩ := hfix
    rcases BitVec.eq_zero_or_eq_one (w.extractLsb' 20 1) with hc | hc <;>
      rcases bitVec2_cases (w.extractLsb' 4 2) with hsz | hsz | hsz | hsz
    all_goals
      rw [hc, hsz] at h
      obtain rfl := Except.ok.inj h
      exact ⟨rfl, rfl, encodeT1_of_fields hsz hc hfix21 hfix12 hfix6⟩
  next => cases h

/-- No bit of a word that decodes is lost, in any view. -/
theorem encode_of_decodeWord {v : View} {w : Word} {i : Instr} (h : decodeWord v w = .ok i) :
    i.view = v ∧ i.wellFormed = true ∧ encode i = w := by
  cases v with
  | a64 => exact encode_of_decodeA64 h
  | a32 => exact encode_of_decodeA32 h
  | t32 => exact encode_of_decodeT32 h

namespace Machine

/-- A fetched word that the configuration's decoder refuses is refused as not shown, whatever the decoder's reason (R64). -/
theorem step_of_decode_error {s : State} {w : Word} {e : DecodeError} (hmark : s.mark = .running)
    (hlaunch : s.launchRefusal = none) (hfetch : s.fetch = .ok w) (hdecode : decode s.cfg s.view w = .error e) :
    step s = .refused .notShown := by
  simp only [step, hmark, hlaunch, hfetch, hdecode]

/-- Settles O28: an instruction the decoder gave would be one that the hypothesis excludes, for a decoded word is the
encoding of its instruction. -/
theorem unmatchedWordRefused : Obligations.UnmatchedWordRefused := by
  intro s w hmark hlaunch hfetch hunmatched
  cases hdecode : decode s.cfg s.view w with
  | error e => exact step_of_decode_error hmark hlaunch hfetch hdecode
  | ok i =>
    obtain ⟨hword, hadmitted⟩ := decode_ok s.cfg s.view w i hdecode
    obtain ⟨hview, hwf, hencode⟩ := encode_of_decodeWord hword
    exact absurd hencode (hunmatched i hview hwf hadmitted)

end Machine

end Sys2Proof
end

section
/-! SUPPORT. ADD (extended register) by the record: which words it has, the state it completes with, and its one fault
(spec/40_a64_add_extended_register.md R72 to R74). -/

namespace Sys2Proof

/-- A field that the mask keeps whole is the same field of what the masked word equals. -/
theorem extractLsb'_of_masked {w mask pattern : Word} {start len : Nat} (hmasked : w &&& mask = pattern)
    (hkept : mask.extractLsb' start len = BitVec.allOnes len) :
    w.extractLsb' start len = pattern.extractLsb' start len := by
  rw [← hmasked, BitVec.extractLsb'_and, hkept, BitVec.and_allOnes]

/-- What R52's match fixes: the format, and `sf` for the variant (R51). -/
theorem addExtMatch_fields (sf : BitVec 1) :
    ((sf.setWidth 32 <<< 31) ||| 0x0B200000#32).extractLsb' 21 10 = 0b0001011001#10 ∧
      ((sf.setWidth 32 <<< 31) ||| 0x0B200000#32).extractLsb' 31 1 = sf := by
  revert sf
  decide

/-- R52: the mask fixes bits 30:21, which pick the format, and bit 31, which picks the variant (R51). -/
theorem masked_iff_decode_addExt (sf : BitVec 1) (w : Word) :
    w &&& 0xFFE00000#32 = (sf.setWidth 32 <<< 31) ||| 0x0B200000#32 ↔
      ∃ rm option imm3 rn rd, decodeWord .a64 w =
        .ok (if sf = 1#1 then .addExt64 rm option imm3 rn rd else .addExt32 rm option imm3 rn rd) := by
  constructor
  · intro hmasked
    obtain ⟨hformat, hvariant⟩ := addExtMatch_fields sf
    have hfix : w.extractLsb' 21 10 = 0b0001011001#10 := (extractLsb'_of_masked hmasked (by decide)).trans hformat
    have hsf : w.extractLsb' 31 1 = sf := (extractLsb'_of_masked hmasked (by decide)).trans hvariant
    exact ⟨_, _, _, _, _, by rw [← hsf]; exact if_pos hfix⟩
  · rintro ⟨rm, option, imm3, rn, rd, hdecode⟩
    obtain ⟨-, -, hencode⟩ := encode_of_decodeWord hdecode
    rw [← hencode]
    rcases BitVec.eq_zero_or_eq_one sf with rfl | rfl <;> exact encodeAddExt_masked ..

namespace Machine

open Statements

/-! ### Registers read and written, by the record -/

/-- `X_read` takes the low bits of the record's register, for number 31 too (R12). -/
theorem State.xRead_eq_xReg (s : State) (n : BitVec 5) (width : Nat) : s.xRead n width = (xReg s n).setWidth width := by
  by_cases hn : n.toNat < 31 <;> simp [State.xRead, xReg, hn]

/-- The same for an operand whose number 31 is the stack pointer (R22). -/
theorem State.xspRead_eq_xspReg (s : State) (n : BitVec 5) (width : Nat) :
    s.xspRead n width = (xspReg s n).setWidth width := by
  by_cases hn : n = 31#5
  · rw [State.xspRead, xspReg, if_pos hn, if_pos hn, State.spRead]
  · rw [State.xspRead, xspReg, if_neg hn, if_neg hn, State.xRead_eq_xReg]

/-- `X_write` changes the register file and nothing else. -/
theorem State.xWrite_eq (s : State) (n : BitVec 5) (width : Nat) (v : BitVec width) :
    s.xWrite n width v =
      { s with a64 := { s.a64 with x := s.a64.x.setIfInBounds n.toNat (v.setWidth 64) } } := by
  rw [← State.xWrite_a64_x]
  unfold State.xWrite
  split <;> rfl

/-! ### The extended operand: `ExtendReg` (R16) is the table of R73 and that of R74 -/

/-- `ExtendReg` at the length that it extends, the table's length capped at the width. -/
theorem extendValue_of_min_eq {n len : Nat} (v : BitVec n) (t : ExtendType) (shift : Nat)
    (hlen : min (extendLen t) n = len) :
    extendValue v t shift =
      (if extendUnsigned t then (v.setWidth len).setWidth n else (v.setWidth len).signExtend n) <<< shift := by
  subst hlen
  rfl

/-- A length within the width is the length extended. -/
theorem extendValue_of_len_le {n : Nat} (v : BitVec n) (t : ExtendType) (shift : Nat) (hlen : extendLen t ≤ n) :
    extendValue v t shift =
      (if extendUnsigned t then (v.extractLsb' 0 (extendLen t)).setWidth n
        else (v.extractLsb' 0 (extendLen t)).signExtend n) <<< shift := by
  rw [extendValue_of_min_eq v t shift (Nat.min_eq_left hlen), BitVec.setWidth_eq_extractLsb' hlen]

/-- A length of at least the width leaves nothing to extend. -/
theorem extendValue_of_le_len {n : Nat} (v : BitVec n) (t : ExtendType) (shift : Nat) (hlen : n ≤ extendLen t) :
    extendValue v t shift = v <<< shift := by
  rw [extendValue_of_min_eq v t shift (Nat.min_eq_right hlen), BitVec.setWidth_eq, BitVec.setWidth_eq,
    BitVec.signExtend_eq, ite_self]

/-- R73: at width 32 the lengths 32 and 64 leave the value as it is. -/
theorem extendValue_32 (v : Word) (option : ExtendType) (shift : Nat) :
    extendValue v option shift = addOperand32 v option <<< shift := by
  cases option with
  | uxtb | uxth | sxtb | sxth => exact extendValue_of_len_le v _ shift (by decide)
  | uxtw | uxtx | sxtw | sxtx => exact extendValue_of_le_len v _ shift (by decide)

/-- R74: at width 64 only the length 64 does. -/
theorem extendValue_64 (v : DWord) (option : ExtendType) (shift : Nat) :
    extendValue v option shift = addOperand64 v option <<< shift := by
  cases option with
  | uxtb | uxth | uxtw | sxtb | sxth | sxtw => exact extendValue_of_len_le v _ shift (by decide)
  | uxtx | sxtx => exact extendValue_of_le_len v _ shift (by decide)

/-! ### The instruction at either width -/

/-- R72: the Operation and the step over the instruction write the destination and `pc`, and nothing else. -/
theorem addSubExtended_advance64 (n : Nat) (rm : BitVec 5) (option : ExtendType) (shift : Nat) (rn rd : BitVec 5)
    (s : State) :
    (addSubExtended n false false rm option shift rn rd s).advance64 =
      addDone rd (((xspReg s rn).setWidth n + extendValue ((xReg s rm).setWidth n) option shift).setWidth 64) s := by
  rw [addSubExtended_plain, State.extendReg, State.xspRead_eq_xspReg, State.xRead_eq_xReg]
  by_cases hrd : rd = 31#5
  · simp only [addDone, hrd, if_true, State.spWrite, State.advance64]
  · simp only [addDone, hrd, if_false, State.xWrite_eq, State.advance64]

/-- R53: a shift amount of at most 4 passes the decode check. -/
theorem addExtended_of_le_four (n : Nat) (word : Word) (rm : BitVec 5) (option : ExtendType) (imm3 : BitVec 3)
    (rn rd : BitVec 5) (s : State) (himm3 : imm3 ≤ 4#3) :
    addExtended n word rm option imm3 rn rd s =
      .next (addDone rd
        (((xspReg s rn).setWidth n + extendValue ((xReg s rm).setWidth n) option imm3.toNat).setWidth 64) s) := by
  have hle : imm3.toNat ≤ 4 := himm3
  rw [addExtended, if_neg (Nat.not_lt.mpr hle), addSubExtended_advance64]

/-- R53: a shift amount above 4 is UNDEFINED. -/
theorem addExtended_of_four_lt (n : Nat) (word : Word) (rm : BitVec 5) (option : ExtendType) (imm3 : BitVec 3)
    (rn rd : BitVec 5) (s : State) (himm3 : 4#3 < imm3) :
    addExtended n word rm option imm3 rn rd s = .fault (.undefined word) :=
  if_pos himm3

theorem exec_addExt32 (rm : BitVec 5) (option : ExtendType) (imm3 : BitVec 3) (rn rd : BitVec 5) (s : State) :
    exec (.addExt32 rm option imm3 rn rd) s =
      addExtended 32 (encode (.addExt32 rm option imm3 rn rd)) rm option imm3 rn rd s := rfl

theorem exec_addExt64 (rm : BitVec 5) (option : ExtendType) (imm3 : BitVec 3) (rn rd : BitVec 5) (s : State) :
    exec (.addExt64 rm option imm3 rn rd) s =
      addExtended 64 (encode (.addExt64 rm option imm3 rn rd)) rm option imm3 rn rd s := rfl

/-- Settles O1: the instruction at width 32, where `ExtendReg` is the table of R73. -/
theorem addExtended32Row : Obligations.AddExtended32Row := by
  refine ⟨masked_iff_decode_addExt 0#1, fun _ _ _ _ _ _ himm3 => ?_, fun _ _ _ _ _ _ himm3 => ?_⟩
  · rw [exec_addExt32, addExtended_of_le_four _ _ _ _ _ _ _ _ himm3, extendValue_32, addResult32]
  · rw [exec_addExt32, addExtended_of_four_lt _ _ _ _ _ _ _ _ himm3]

/-- Settles O2: the instruction at width 64, where `ExtendReg` is the table of R74 and no register is narrowed. -/
theorem addExtended64Row : Obligations.AddExtended64Row := by
  refine ⟨masked_iff_decode_addExt 1#1, fun _ _ _ _ _ _ himm3 => ?_, fun _ _ _ _ _ _ himm3 => ?_⟩
  · rw [exec_addExt64, addExtended_of_le_four _ _ _ _ _ _ _ _ himm3, extendValue_64, addResult64]
    simp only [BitVec.setWidth_eq]
  · rw [exec_addExt64, addExtended_of_four_lt _ _ _ _ _ _ _ _ himm3]

end Machine

end Sys2Proof
end

section
/-! SUPPORT. The AArch32 CRC rows, encoding T1, by the record: which pairs a row has, the state it completes with, and its
checks in their order (spec/41_a32_t32_crc32.md R83, R84, R89 to R91). -/

namespace Sys2Proof

/-! ### The words of a row -/

/-- The word that R57's mask leaves: the format's fixed bits with C and `sz` (R56). -/
def t1Match (c : BitVec 1) (sz : BitVec 2) : Word := (c.setWidth 32 <<< 20) ||| (sz.setWidth 32 <<< 4) ||| 0xFAC0F080#32

/-- The fixed bits of format T1 (R56), which `decodeT32` asks for. -/
def T1Format (w : Word) : Prop :=
  w.extractLsb' 21 11 = 0b11111010110#11 ∧ w.extractLsb' 12 4 = 0b1111#4 ∧ w.extractLsb' 6 2 = 0b10#2

theorem t1Match_fields (c : BitVec 1) (sz : BitVec 2) :
    (t1Match c sz).extractLsb' 21 11 = 0b11111010110#11 ∧ (t1Match c sz).extractLsb' 20 1 = c ∧
      (t1Match c sz).extractLsb' 12 4 = 0b1111#4 ∧ (t1Match c sz).extractLsb' 6 2 = 0b10#2 ∧
      (t1Match c sz).extractLsb' 4 2 = sz := by
  revert c sz
  decide

/-- R57: a word the mask sends to a row's match has the format, and the row's C and `sz`. -/
theorem t1Format_of_masked {w : Word} {c : BitVec 1} {sz : BitVec 2} (hmasked : w &&& 0xFFF0F0F0#32 = t1Match c sz) :
    T1Format w ∧ w.extractLsb' 20 1 = c ∧ w.extractLsb' 4 2 = sz := by
  obtain ⟨hfix21, hc, hfix12, hfix6, hsz⟩ := t1Match_fields c sz
  exact ⟨⟨(extractLsb'_of_masked hmasked (by decide)).trans hfix21,
      (extractLsb'_of_masked hmasked (by decide)).trans hfix12,
      (extractLsb'_of_masked hmasked (by decide)).trans hfix6⟩,
    (extractLsb'_of_masked hmasked (by decide)).trans hc, (extractLsb'_of_masked hmasked (by decide)).trans hsz⟩

namespace Machine

open Statements

/-- What picks out one T1 row of the model: `decode` reads it off C and `sz`, `encode` lays those out again, and `exec` runs
`crcT1` on the row's own word. -/
structure IsT1Row (c : BitVec 1) (sz : BitVec 2) (crc32c : Bool) (row : BitVec 4 → BitVec 4 → BitVec 4 → Instr) : Prop where
  decode_eq : ∀ w : Word, T1Format w → w.extractLsb' 20 1 = c → w.extractLsb' 4 2 = sz →
    decodeWord .t32 w = .ok (row (w.extractLsb' 16 4) (w.extractLsb' 8 4) (w.extractLsb' 0 4))
  encode_eq : ∀ rn rd rm, encode (row rn rd rm) = encodeT1 c rn rd sz rm
  exec_eq : ∀ rn rd rm s, exec (row rn rd rm) s = crcT1 (encode (row rn rd rm)) crc32c rn rd sz rm s

/-- R57: the pairs of a row are those of its mask and match. -/
theorem IsT1Row.masked_iff_decode {c : BitVec 1} {sz : BitVec 2} {crc32c : Bool}
    {row : BitVec 4 → BitVec 4 → BitVec 4 → Instr} (hrow : IsT1Row c sz crc32c row) (w : Word) :
    w &&& 0xFFF0F0F0#32 = t1Match c sz ↔ ∃ rn rd rm, decodeWord .t32 w = .ok (row rn rd rm) := by
  constructor
  · intro hmasked
    obtain ⟨hformat, hc, hsz⟩ := t1Format_of_masked hmasked
    exact ⟨_, _, _, hrow.decode_eq w hformat hc hsz⟩
  · rintro ⟨rn, rd, rm, hdecode⟩
    obtain ⟨-, -, hencode⟩ := encode_of_decodeWord hdecode
    rw [← hencode, hrow.encode_eq]
    exact encodeT1_masked ..

/-! ### Registers read and written, by the record -/

/-- `R_read` is the record's register (R13). -/
theorem State.rRead_eq_rReg (s : State) (n : BitVec 4) (hn : n.toNat < 15) : s.rRead ⟨n.toNat, hn⟩ = rReg s n := by
  simp [State.rRead, rReg, hn]

/-- `R_write` changes the register file and nothing else. -/
theorem State.rWrite_eq (s : State) (n : BitVec 4) (hn : n.toNat < 15) (v : Word) :
    s.rWrite ⟨n.toNat, hn⟩ v = { s with a32 := { s.a32 with r := s.a32.r.setIfInBounds n.toNat v } } := by
  have hset : s.a32.r.set n.toNat v = s.a32.r.setIfInBounds n.toNat v := by
    ext i hi
    simp [Vector.getElem_set, Vector.getElem_setIfInBounds]
  rw [← hset]
  rfl

@[simp] theorem State.passDraw_false (s : State) : s.passDraw false = s := rfl

/-- R84: with no free choice taken, the write and the step over the instruction change `r[rd]` and `pc`, and nothing
else. -/
theorem State.crcWrite_advance32 (s : State) (rd rn rm : BitVec 4) (hd : rd.toNat < 15) (hn : rn.toNat < 15)
    (hm : rm.toNat < 15) (size : Nat) (crc32c : Bool) :
    (s.crcWrite { d := ⟨rd.toNat, hd⟩, n := ⟨rn.toNat, hn⟩, m := ⟨rm.toNat, hm⟩, size := size } crc32c).advance32 =
      crcDone size crc32c rn rd rm s := by
  rw [State.crcWrite, State.rWrite_eq, State.rRead_eq_rReg, State.rRead_eq_rReg]
  rfl

/-! ### The checks -/

/-- R58: only `sz` = 11 is the size 64. -/
theorem sizeOfSz_ne_64 {sz : BitVec 2} (hsz : sz ≠ 0b11#2) : sizeOfSz sz ≠ 64 := by
  revert sz
  decide

theorem State.checkSize_of_ne (s : State) {sz : BitVec 2} (hsz : sz ≠ 0b11#2) : s.checkSize sz = .pass (sizeOfSz sz) :=
  if_neg (sizeOfSz_ne_64 hsz)

theorem State.drewSize_of_ne (s : State) {sz : BitVec 2} (hsz : sz ≠ 0b11#2) : s.drewSize sz = false := by
  simp [State.drewSize, sizeOfSz_ne_64 hsz]

/-- R83: the T1 column, check by check, for the sizes 8, 16 and 32. -/
theorem crcT1_eq_t1Common (word : Word) (crc32c : Bool) (rn rd rm : BitVec 4) {sz : BitVec 2} (hsz : sz ≠ 0b11#2)
    (s : State) : crcT1 word crc32c rn rd sz rm s = t1Common word (sizeOfSz sz) crc32c rn rd rm s := by
  rw [crcT1, State.checksT1, State.drewSize_of_ne s hsz, State.checkItBlock_eq, State.checkCrcExt_eq,
    State.checkSize_of_ne s hsz, t1Common]
  by_cases hit : s.a32.inItBlock = true
  · rw [if_pos hit, if_pos hit]
    rfl
  rw [if_neg hit, if_neg hit]
  by_cases hext : s.cfg.haveCrc = false
  · rw [if_pos hext, if_neg (by simp [hext])]
    rfl
  rw [if_neg hext, if_pos (by simpa using hext)]
  by_cases hregs : rd = 15#4 ∨ rn = 15#4 ∨ rm = 15#4
  · rw [if_pos hregs, checkRegs_of_fifteen rd rn rm hregs]
    rfl
  rw [if_neg hregs]
  obtain ⟨hrd, hrn, hrm⟩ := by simpa only [not_or] using hregs
  obtain ⟨hd, hn, hm, hpass⟩ := checkRegs_of_ne rd rn rm hrd hrn hrm
  rw [hpass, ← State.crcWrite_advance32 s rd rn rm hd hn hm]
  rfl

/-- Where every check of the T1 column passes, the instruction completes. -/
theorem t1Common_of_checks_pass (word : Word) (size : Nat) (crc32c : Bool) {rn rd rm : BitVec 4} {s : State}
    (hit : s.a32.inItBlock = false) (hext : s.cfg.haveCrc = true) (hrd : rd ≠ 15#4) (hrn : rn ≠ 15#4)
    (hrm : rm ≠ 15#4) : t1Common word size crc32c rn rd rm s = .next (crcDone size crc32c rn rd rm s) := by
  simp [t1Common, hit, hext, hrd, hrn, hrm]

/-! ### The rows -/

/-- A T1 row with `sz` other than 11 is what the spec's table of T1 rows says (R89 to R91, and R95 to R97 for C = 1). -/
theorem IsT1Row.t1Row {c : BitVec 1} {sz : BitVec 2} {crc32c : Bool} {row : BitVec 4 → BitVec 4 → BitVec 4 → Instr}
    (hrow : IsT1Row c sz crc32c row) (hsz : sz ≠ 0b11#2) : T1Row (t1Match c sz) (sizeOfSz sz) crc32c row := by
  have hexec : ∀ rn rd rm s, exec (row rn rd rm) s = t1Common (encode (row rn rd rm)) (sizeOfSz sz) crc32c rn rd rm s :=
    fun rn rd rm s => (hrow.exec_eq rn rd rm s).trans (crcT1_eq_t1Common _ crc32c rn rd rm hsz s)
  exact ⟨hrow.masked_iff_decode,
    fun rn rd rm s hit hext hrd hrn hrm => (hexec rn rd rm s).trans (t1Common_of_checks_pass _ _ _ hit hext hrd hrn hrm),
    hexec⟩

/-- R89. -/
theorem isT1Row_crc32bT1 : IsT1Row 0#1 0b00#2 false .crc32bT1 where
  decode_eq w hformat hc hsz := by rw [decodeWord, decodeT32, hc, hsz]; exact if_pos hformat
  encode_eq _ _ _ := rfl
  exec_eq _ _ _ _ := rfl

/-- R90. -/
theorem isT1Row_crc32hT1 : IsT1Row 0#1 0b01#2 false .crc32hT1 where
  decode_eq w hformat hc hsz := by rw [decodeWord, decodeT32, hc, hsz]; exact if_pos hformat
  encode_eq _ _ _ := rfl
  exec_eq _ _ _ _ := rfl

/-- R91. -/
theorem isT1Row_crc32wT1 : IsT1Row 0#1 0b10#2 false (fun rn rd rm => .crc32wT1 rn rd false rm) where
  decode_eq w hformat hc hsz := by rw [decodeWord, decodeT32, hc, hsz]; exact if_pos hformat
  encode_eq _ _ _ := rfl
  exec_eq _ _ _ _ := rfl

/-- Settles O12: the three rows with C = 0 and `sz` = 00, 01 and 10, each by the one account of a T1 row. -/
theorem crc32T1Rows : Obligations.Crc32T1Rows :=
  ⟨isT1Row_crc32bT1.t1Row (by decide), isT1Row_crc32hT1.t1Row (by decide), isT1Row_crc32wT1.t1Row (by decide)⟩

end Machine

end Sys2Proof
end

section
/-! SUPPORT. The AArch32 CRC rows, encoding A1, by the record, and the constrained-unpredictable choices of both encodings
(spec/60_exceptions.md R114, R115). -/

namespace Sys2Proof.Machine

open Statements

/-! ### The size check, by the behaviour in force (R114) -/

theorem State.checkSize_of_no_choice {s : State} (h : s.size64Choice = none) :
    s.checkSize 0b11#2 = .stop (.unpredictable .size64) := by
  simp [State.checkSize, sizeOfSz, h]

theorem State.checkSize_of_undefined {s : State} (h : s.size64Choice = some .undefined) :
    s.checkSize 0b11#2 = .stop .undefined := by
  simp [State.checkSize, sizeOfSz, h]

theorem State.checkSize_of_nop {s : State} (h : s.size64Choice = some .nop) : s.checkSize 0b11#2 = .nop := by
  simp [State.checkSize, sizeOfSz, h]

theorem State.checkSize_of_size32 {s : State} (h : s.size64Choice = some .size32) : s.checkSize 0b11#2 = .pass 32 := by
  simp [State.checkSize, sizeOfSz, h]

theorem State.size64Choice_of_default {s : State} (h : s.cfg.cuSize64 = .defaultTreatment) : s.size64Choice = none := by
  simp [State.size64Choice, h]

theorem State.size64Choice_of_always {s : State} {b : Size64Behaviour} (h : s.cfg.cuSize64 = .always b) :
    s.size64Choice = some b := by
  simp [State.size64Choice, h]

/-- A behaviour fixed for good is no free choice. -/
theorem State.drewSize_of_always {s : State} {b : Size64Behaviour} (h : s.cfg.cuSize64 = .always b) (sz : BitVec 2) :
    s.drewSize sz = false := by
  simp [State.drewSize, h]

/-! ### The condition check, by the behaviour in force (R115) -/

@[simp] theorem State.checkCond_fourteen (s : State) : s.checkCond 14#4 = .pass () := rfl

theorem State.checkCond_of_no_choice {s : State} {cond : BitVec 4} (hcond : cond ≠ 14#4) (h : s.condChoice = none) :
    s.checkCond cond = .stop (.unpredictable .cond) := by
  simp [State.checkCond, hcond, h]

theorem State.checkCond_of_undefined {s : State} {cond : BitVec 4} (hcond : cond ≠ 14#4)
    (h : s.condChoice = some .undefined) : s.checkCond cond = .stop .undefined := by
  simp [State.checkCond, hcond, h]

theorem State.checkCond_of_nop {s : State} {cond : BitVec 4} (hcond : cond ≠ 14#4) (h : s.condChoice = some .nop) :
    s.checkCond cond = .nop := by
  simp [State.checkCond, hcond, h]

theorem State.checkCond_of_unconditional {s : State} {cond : BitVec 4} (hcond : cond ≠ 14#4)
    (h : s.condChoice = some .unconditional) : s.checkCond cond = .pass () := by
  simp [State.checkCond, hcond, h]

/-- R81: the model's condition table is the statements' table; 1110 always passes, and only 1111 has no row. -/
theorem conditionHolds_eq_condTable {cond : BitVec 4} (hcond : cond ≠ 15#4) (f : Flags) :
    conditionHolds cond f = some (condTable cond f) := by
  obtain ⟨⟨k, hk⟩⟩ := cond
  have hrow : k < 15 := by
    by_contra hge
    obtain rfl : k = 15 := by omega
    exact hcond rfl
  interval_cases k <;> rfl

theorem State.checkCond_of_conditional {s : State} {cond : BitVec 4} (hcond : cond ≠ 14#4) (hcond' : cond ≠ 15#4)
    (h : s.condChoice = some .conditional) :
    s.checkCond cond = if condTable cond s.a32.flags = true then .pass () else .nop := by
  cases htable : condTable cond s.a32.flags <;>
    simp [State.checkCond, hcond, h, conditionHolds_eq_condTable hcond', htable]

theorem State.condChoice_of_default {s : State} (h : s.cfg.cuCond = .defaultTreatment) : s.condChoice = none := by
  simp [State.condChoice, h]

theorem State.condChoice_of_always {s : State} {b : CondBehaviour} (h : s.cfg.cuCond = .always b) :
    s.condChoice = some b := by
  simp [State.condChoice, h]

/-! ### Where the condition check takes no free choice -/

theorem State.drewCond_of_not_varying {s : State} (h : s.cfg.cuCond ≠ .varying) (cond : BitVec 4) (sz : BitVec 2) :
    s.drewCond cond sz = false := by
  unfold State.drewCond
  cases s.checkSize sz <;> simp [h]

theorem State.drewCond_fourteen (s : State) (sz : BitVec 2) : s.drewCond 14#4 sz = false := by
  unfold State.drewCond
  cases s.checkSize sz <;> rfl

theorem State.drewCond_of_checkSize_nop {s : State} {sz : BitVec 2} (h : s.checkSize sz = .nop) (cond : BitVec 4) :
    s.drewCond cond sz = false := by
  simp [State.drewCond, h]

theorem State.drewCond_congr {s : State} {sz sz' : BitVec 2} (h : s.checkSize sz = s.checkSize sz') (cond : BitVec 4) :
    s.drewCond cond sz = s.drewCond cond sz' := by
  rw [State.drewCond, State.drewCond, h]

/-! ### The A1 column -/

/-- The operands an A1 or T1 word names once its register check has passed. -/
def namedOperands {rd rn rm : BitVec 4} (hd : rd.toNat < 15) (hn : rn.toNat < 15) (hm : rm.toNat < 15) (size : Nat) :
    CrcOperands :=
  { d := ⟨rd.toNat, hd⟩, n := ⟨rn.toNat, hn⟩, m := ⟨rm.toNat, hm⟩, size := size }

theorem mapNext_passDraw_false (o : Result) : mapNext (·.passDraw false) o = o := by
  cases o <;> rfl

/-- An instruction whose last check is a condition other than 1110 answers, with its free choice passed, what R115 makes of
the behaviour in force. -/
theorem State.finishCrc_checkCond {s : State} {cond rd rn rm : BitVec 4} (hcond : cond ≠ 14#4) (hcond' : cond ≠ 15#4)
    (hd : rd.toNat < 15) (hn : rn.toNat < 15) (hm : rm.toNat < 15) {b : CondBehaviour} (hchoice : s.condChoice = some b)
    (word : Word) (size : Nat) (crc32c drew : Bool) :
    s.finishCrc word crc32c drew ((s.checkCond cond).andThen fun _ => .pass (namedOperands hd hn hm size)) =
      mapNext (·.passDraw drew) (condOutcome b word size crc32c cond rn rd rm s) := by
  have hdone := State.crcWrite_advance32 s rd rn rm hd hn hm size crc32c
  cases b with
  | undefined => rw [State.checkCond_of_undefined hcond hchoice]; rfl
  | nop => rw [State.checkCond_of_nop hcond hchoice]; rfl
  | unconditional => rw [State.checkCond_of_unconditional hcond hchoice, condOutcome, ← hdone]; rfl
  | conditional =>
    rw [State.checkCond_of_conditional hcond hcond' hchoice, condOutcome, ← hdone]
    cases condTable cond s.a32.flags <;> rfl

/-- R82: the A1 column, check by check, for the sizes 8, 16 and 32, with the free choice of the condition check passed. -/
theorem crcA1_eq_a1Common (word : Word) (crc32c : Bool) {cond : BitVec 4} (hcond : cond ≠ 15#4) (rn rd rm : BitVec 4)
    (sbzHi : BitVec 2) (sbz8 : BitVec 1) {sz : BitVec 2} (hsz : sz ≠ 0b11#2) (s : State) :
    crcA1 word crc32c cond sz rn rd sbzHi sbz8 rm s =
      mapNext (·.passDraw (s.drewCond cond sz))
        (a1Common s.condChoice word (sizeOfSz sz) crc32c cond rn rd sbzHi sbz8 rm s) := by
  rw [crcA1, State.checksA1, State.drewSize_of_ne s hsz, State.checkCrcExt_eq, State.checkSize_of_ne s hsz,
    a1Common.eq_def, Bool.false_or]
  by_cases hext : s.cfg.haveCrc = false
  · rw [if_pos hext, if_neg (by simp [hext])]
    rfl
  rw [if_neg hext, if_pos (by simpa using hext)]
  by_cases hsbz : sbzHi ≠ 0#2 ∨ sbz8 ≠ 0#1
  · rw [if_pos hsbz, checkSbz, if_neg (by tauto)]
    rfl
  rw [if_neg hsbz, checkSbz, if_pos (by tauto)]
  by_cases hregs : rd = 15#4 ∨ rn = 15#4 ∨ rm = 15#4
  · rw [if_pos hregs, checkRegs_of_fifteen rd rn rm hregs]
    rfl
  rw [if_neg hregs]
  obtain ⟨hrd, hrn, hrm⟩ := by simpa only [not_or] using hregs
  obtain ⟨hd, hn, hm, hpass⟩ := checkRegs_of_ne rd rn rm hrd hrn hrm
  rw [hpass]
  by_cases halways : cond = 14#4
  · rw [if_pos halways, halways, State.checkCond_fourteen, ← State.crcWrite_advance32 s rd rn rm hd hn hm]
    rfl
  rw [if_neg halways]
  cases hchoice : s.condChoice with
  | none =>
    simp only [Check.andThen_pass, State.checkCond_of_no_choice halways hchoice]
    rfl
  | some b => exact State.finishCrc_checkCond halways hcond hd hn hm hchoice word _ crc32c _

/-! ### `sz` = 11 (R114) -/

/-- What a fault records aside, carrying out the checks does not look at the word. -/
theorem State.recording_finishCrc (s : State) (word word' : Word) (crc32c drew : Bool) (c : Check CrcOperands) :
    recording word (s.finishCrc word' crc32c drew c) = s.finishCrc word crc32c drew c := by
  cases c with
  | stop cause => cases cause <;> rfl
  | nop => rfl
  | pass op => rfl

/-- R114 for an instruction whose size check meets `sz` = 11 with the checks `late` still to come: they decide only under
`size32`, where `run` is what they come to. -/
theorem size64Rule_of_finishCrc {i : Instr} {run : Result} {s : State} {word : Word} {crc32c drew : Bool}
    {late : Nat → Check CrcOperands}
    (hexec : exec i s = s.finishCrc (encode i) crc32c drew ((s.checkSize 0b11#2).andThen late))
    (hnop : s.cfg.cuSize64 = .always .nop → drew = false)
    (hrun : s.cfg.cuSize64 = .always .size32 → run = s.finishCrc word crc32c drew (late 32)) : Size64Rule i run s := by
  constructor
  · intro hcu
    rw [hexec, State.checkSize_of_no_choice (State.size64Choice_of_default hcu)]
    rfl
  · intro b hcu
    have hchoice := State.size64Choice_of_always hcu
    rw [hexec]
    cases b with
    | undefined => rw [State.checkSize_of_undefined hchoice]; rfl
    | nop => rw [State.checkSize_of_nop hchoice, hnop hcu]; rfl
    | size32 =>
      rw [State.checkSize_of_size32 hchoice, size64Outcome, hrun hcu, State.recording_finishCrc]
      rfl

/-- Under `size32` the size checks of `sz` = 11 and `sz` = 10 agree. -/
theorem State.checkSize_of_always_size32 {s : State} (h : s.cfg.cuSize64 = .always .size32) :
    s.checkSize 0b11#2 = s.checkSize 0b10#2 := by
  rw [State.checkSize_of_size32 (State.size64Choice_of_always h), State.checkSize_of_ne s (by decide)]
  rfl

/-- R114 in A1: the remaining check is the condition's, as in the row of size 32. -/
theorem size64Rule_crcA1 {i : Instr} {s : State} {word : Word} {crc32c : Bool} {cond rn rd rm : BitVec 4}
    (hext : s.cfg.haveCrc = true) (hrd : rd ≠ 15#4) (hrn : rn ≠ 15#4) (hrm : rm ≠ 15#4)
    (hexec : exec i s = crcA1 (encode i) crc32c cond 0b11#2 rn rd 0#2 0#1 rm s) :
    Size64Rule i (crcA1 word crc32c cond 0b10#2 rn rd 0#2 0#1 rm s) s := by
  obtain ⟨hd, hn, hm, hregs⟩ := checkRegs_of_ne rd rn rm hrd hrn hrm
  have hchecks : ∀ sz, s.checksA1 cond sz rn rd 0#2 0#1 rm =
      (s.checkSize sz).andThen fun size => (s.checkCond cond).andThen fun _ => .pass (namedOperands hd hn hm size) := by
    intro sz
    rw [State.checksA1, State.checkCrcExt_eq, if_pos hext, hregs]
    rfl
  refine size64Rule_of_finishCrc (word := word) (hexec.trans (by rw [crcA1, hchecks])) (fun hcu => ?_) (fun hcu => ?_)
  · rw [State.drewSize_of_always hcu, State.drewCond_of_checkSize_nop
      (State.checkSize_of_nop (State.size64Choice_of_always hcu))]
    rfl
  · rw [crcA1, hchecks, State.drewSize_of_always hcu, State.drewSize_of_always hcu,
      State.drewCond_congr (State.checkSize_of_always_size32 hcu)]
    rfl

/-- R114 in T1: no check remains. -/
theorem size64Rule_crcT1 {i : Instr} {s : State} {word : Word} {crc32c : Bool} {rn rd rm : BitVec 4}
    (hit : s.a32.inItBlock = false) (hext : s.cfg.haveCrc = true) (hrd : rd ≠ 15#4) (hrn : rn ≠ 15#4) (hrm : rm ≠ 15#4)
    (hexec : exec i s = crcT1 (encode i) crc32c rn rd 0b11#2 rm s) :
    Size64Rule i (crcT1 word crc32c rn rd 0b10#2 rm s) s := by
  obtain ⟨hd, hn, hm, hregs⟩ := checkRegs_of_ne rd rn rm hrd hrn hrm
  have hchecks : ∀ sz, s.checksT1 rn rd sz rm =
      (s.checkSize sz).andThen fun size => .pass (namedOperands hd hn hm size) := by
    intro sz
    rw [State.checksT1, State.checkItBlock_eq, if_neg (by simp [hit]), State.checkCrcExt_eq, if_pos hext, hregs]
    rfl
  refine size64Rule_of_finishCrc (word := word) (hexec.trans (by rw [crcT1, hchecks])) (fun hcu => ?_) (fun hcu => ?_)
  · exact State.drewSize_of_always hcu _
  · rw [crcT1, hchecks, State.drewSize_of_always hcu, State.drewSize_of_always hcu]
    rfl

/-- Where every check of the A1 column passes, an instruction of condition 1110 completes. -/
theorem crcA1_of_checks_pass (word : Word) (crc32c : Bool) {rn rd rm : BitVec 4} {sz : BitVec 2} (hsz : sz ≠ 0b11#2)
    {s : State} (hext : s.cfg.haveCrc = true) (hrd : rd ≠ 15#4) (hrn : rn ≠ 15#4) (hrm : rm ≠ 15#4) :
    crcA1 word crc32c 14#4 sz rn rd 0#2 0#1 rm s = .next (crcDone (sizeOfSz sz) crc32c rn rd rm s) := by
  rw [crcA1_eq_a1Common word crc32c (by decide) rn rd rm 0#2 0#1 hsz s, State.drewCond_fourteen, mapNext_passDraw_false]
  simp [a1Common, hext, hrd, hrn, hrm]

theorem crcT1_of_checks_pass (word : Word) (crc32c : Bool) {rn rd rm : BitVec 4} {sz : BitVec 2} (hsz : sz ≠ 0b11#2)
    {s : State} (hit : s.a32.inItBlock = false) (hext : s.cfg.haveCrc = true) (hrd : rd ≠ 15#4) (hrn : rn ≠ 15#4)
    (hrm : rm ≠ 15#4) : crcT1 word crc32c rn rd sz rm s = .next (crcDone (sizeOfSz sz) crc32c rn rd rm s) :=
  (crcT1_eq_t1Common word crc32c rn rd rm hsz s).trans (t1Common_of_checks_pass _ _ _ hit hext hrd hrn hrm)

/-- Settles O15: under `size32` the word runs the row of size 32, which completes for `cond` = 1110 and in T1; every other
treatment ends at the size check. -/
theorem size64Choices : Obligations.Size64Choices := by
  intro cond rn rd rm s hext hrd hrn hrm
  have ha1 : ∀ {i : Instr} {crc32c : Bool}, exec i s = crcA1 (encode i) crc32c 14#4 0b11#2 rn rd 0#2 0#1 rm s →
      Size64Rule i (.next (crcDone 32 crc32c rn rd rm s)) s := by
    intro i crc32c hexec
    rw [show 32 = sizeOfSz 0b10#2 from rfl, ← crcA1_of_checks_pass (encode i) crc32c (by decide) hext hrd hrn hrm]
    exact size64Rule_crcA1 hext hrd hrn hrm hexec
  have ht1 : s.a32.inItBlock = false → ∀ {i : Instr} {crc32c : Bool},
      exec i s = crcT1 (encode i) crc32c rn rd 0b11#2 rm s → Size64Rule i (.next (crcDone 32 crc32c rn rd rm s)) s := by
    intro hit i crc32c hexec
    rw [show 32 = sizeOfSz 0b10#2 from rfl, ← crcT1_of_checks_pass (encode i) crc32c (by decide) hit hext hrd hrn hrm]
    exact size64Rule_crcT1 hit hext hrd hrn hrm hexec
  exact ⟨ha1 rfl, ha1 rfl,
    fun _ _ => ⟨size64Rule_crcA1 hext hrd hrn hrm rfl, size64Rule_crcA1 hext hrd hrn hrm rfl⟩,
    fun hit => ⟨ht1 hit rfl, ht1 hit rfl⟩⟩

/-! ### `cond` other than 1110 (R115) -/

/-- R115 for a row that runs the A1 checks at a size other than 64. -/
theorem condRule_of_crcA1 {row : BitVec 4 → BitVec 4 → BitVec 4 → BitVec 2 → BitVec 1 → BitVec 4 → Instr}
    {crc32c : Bool} {sz : BitVec 2} (hsz : sz ≠ 0b11#2)
    (hexec : ∀ cond rn rd rm s, exec (row cond rn rd 0#2 0#1 rm) s =
      crcA1 (encode (row cond rn rd 0#2 0#1 rm)) crc32c cond sz rn rd 0#2 0#1 rm s) : CondRule row := by
  intro cond rn rd rm s hext hrd hrn hrm hcond hcond' asAlways
  have halways : asAlways = .next (crcDone (sizeOfSz sz) crc32c rn rd rm s) :=
    (hexec 14#4 rn rd rm s).trans (crcA1_of_checks_pass _ crc32c hsz hext hrd hrn hrm)
  have hfixed : s.cfg.cuCond ≠ .varying → exec (row cond rn rd 0#2 0#1 rm) s =
      a1Common s.condChoice (encode (row cond rn rd 0#2 0#1 rm)) (sizeOfSz sz) crc32c cond rn rd 0#2 0#1 rm s := by
    intro hcu
    rw [hexec, crcA1_eq_a1Common _ crc32c hcond' rn rd rm 0#2 0#1 hsz s, State.drewCond_of_not_varying hcu,
      mapNext_passDraw_false]
  have hbehaviour : ∀ b, s.cfg.cuCond = .always b → exec (row cond rn rd 0#2 0#1 rm) s =
      condOutcome b (encode (row cond rn rd 0#2 0#1 rm)) (sizeOfSz sz) crc32c cond rn rd rm s := by
    intro b hcu
    rw [hfixed (by simp [hcu]), State.condChoice_of_always hcu]
    simp [a1Common, hext, hrd, hrn, hrm, hcond]
  rw [halways]
  refine ⟨fun hcu => ?_, hbehaviour .undefined, hbehaviour .nop, hbehaviour .unconditional, hbehaviour .conditional⟩
  rw [hfixed (by simp [hcu]), State.condChoice_of_default hcu]
  simp [a1Common, hext, hrd, hrn, hrm, hcond]

/-- R54: the A1 diagram has no condition 1111. -/
theorem decodeWord_a32_of_cond_fifteen {w : Word} (hcond : w.extractLsb' 28 4 = 15#4) :
    decodeWord .a32 w = .error .notShown := by
  simp only [decodeWord, decodeA32]
  exact if_neg fun ⟨_, _, _, hne⟩ => hne hcond

/-- Settles O16: the six rows run one list of checks, and a word with condition 1111 is no A1 word. -/
theorem condChoices : Obligations.CondChoices :=
  ⟨condRule_of_crcA1 (by decide) fun _ _ _ _ _ => rfl,
    condRule_of_crcA1 (by decide) fun _ _ _ _ _ => rfl,
    condRule_of_crcA1 (by decide) fun _ _ _ _ _ => rfl,
    condRule_of_crcA1 (by decide) fun _ _ _ _ _ => rfl,
    condRule_of_crcA1 (by decide) fun _ _ _ _ _ => rfl,
    condRule_of_crcA1 (by decide) fun _ _ _ _ _ => rfl,
    fun _ => decodeWord_a32_of_cond_fifteen⟩

end Sys2Proof.Machine
end

section
/-! SUPPORT. Decoding and encoding undo each other, in every view (spec/30_encoding.md R51, R54, R56;
spec/42_a64_crc32c_named_in_title.md R102). -/

namespace Sys2Proof

theorem Instr.cond_ne_of_condEncodable {cond : BitVec 4} (hwf : condEncodable cond = true) : cond ≠ 0b1111#4 := by
  simpa [condEncodable] using hwf

/-- `sf` is read back as the Boolean it was laid out from. -/
theorem ofBool_beq_one (b : Bool) : (BitVec.ofBool b == 1#1) = b := by
  cases b <;> rfl

/-- Settles O24: the fields read back from each format are those the encoder laid out, and they lead the decoder to the
row. -/
theorem decodeOfEncode : Obligations.DecodeOfEncode := by
  intro i hwf
  cases i with
  | addExt32 | addExt64 => simp [decodeWord, Instr.view, decodeA64, decodeAddExt, encode, encodeAddExt_fields]
  | crc32cbA64 | crc32chA64 | crc32cwA64 | crc32cxA64 =>
    simp [decodeWord, Instr.view, decodeA64, decodeCrcA64, encode, encodeCrcA64_fields, ofBool_beq_one]
  | crc32bA1 | crc32hA1 | crc32cbA1 | crc32chA1 =>
    simp [decodeWord, Instr.view, decodeA32, encode, encodeA1_fields, Instr.cond_ne_of_condEncodable hwf]
  | crc32wA1 cond size64 | crc32cwA1 cond size64 =>
    cases size64 <;>
      simp [decodeWord, Instr.view, decodeA32, encode, encodeA1_fields, szOfWordRow, Instr.cond_ne_of_condEncodable hwf]
  | crc32bT1 | crc32hT1 | crc32cbT1 | crc32chT1 =>
    simp [decodeWord, Instr.view, decodeT32, encode, encodeT1_fields]
  | crc32wT1 rn rd size64 | crc32cwT1 rn rd size64 =>
    cases size64 <;> simp [decodeWord, Instr.view, decodeT32, encode, encodeT1_fields, szOfWordRow]

/-- Settles O25. -/
theorem encodeOfDecode : Obligations.EncodeOfDecode :=
  fun _ _ _ hdecode => encode_of_decodeWord hdecode

/-- The view that bits 27 and 30 of a word leave it: bit 27 is 0 in A1 alone, and of the other formats T1 alone has bit 30
set (R51, R54, R56, R102). -/
def viewOfWord (w : Word) : View :=
  if w.getLsbD 27 = false then .a32 else if w.getLsbD 30 = true then .t32 else .a64

/-- The bits of a field that a word is known to have. -/
theorem getLsbD_of_extractLsb' {w : Word} {start len : Nat} {field : BitVec len}
    (hfield : w.extractLsb' start len = field) (k : Nat) (hk : k < len) : w.getLsbD (start + k) = field.getLsbD k := by
  simp [← hfield, hk]

theorem viewOfWord_encode (i : Instr) : viewOfWord (encode i) = i.view := by
  cases i with
  | addExt32 rm option imm3 rn rd | addExt64 rm option imm3 rn rd =>
    obtain ⟨-, hfix, -⟩ := encodeAddExt_fields _ rm rn rd option imm3
    rw [viewOfWord, encode, getLsbD_of_extractLsb' hfix 6 (by decide), getLsbD_of_extractLsb' hfix 9 (by decide)]
    rfl
  | crc32cbA64 sf rm rn rd | crc32chA64 sf rm rn rd | crc32cwA64 sf rm rn rd | crc32cxA64 sf rm rn rd =>
    obtain ⟨-, hfix, -⟩ := encodeCrcA64_fields rm rn rd _ sf
    rw [viewOfWord, encode, getLsbD_of_extractLsb' hfix 6 (by decide), getLsbD_of_extractLsb' hfix 9 (by decide)]
    rfl
  | crc32bA1 cond rn rd sbzHi sbz8 rm | crc32hA1 cond rn rd sbzHi sbz8 rm | crc32cbA1 cond rn rd sbzHi sbz8 rm
  | crc32chA1 cond rn rd sbzHi sbz8 rm | crc32wA1 cond _ rn rd sbzHi sbz8 rm | crc32cwA1 cond _ rn rd sbzHi sbz8 rm =>
    obtain ⟨-, hfix, -⟩ := encodeA1_fields cond rn rd rm _ sbzHi _ sbz8
    rw [viewOfWord, encode, getLsbD_of_extractLsb' hfix 4 (by decide)]
    rfl
  | crc32bT1 rn rd rm | crc32hT1 rn rd rm | crc32cbT1 rn rd rm | crc32chT1 rn rd rm | crc32wT1 rn rd _ rm
  | crc32cwT1 rn rd _ rm =>
    obtain ⟨hfix, -⟩ := encodeT1_fields rn rd rm _ _
    rw [viewOfWord, encode, getLsbD_of_extractLsb' hfix 6 (by decide), getLsbD_of_extractLsb' hfix 9 (by decide)]
    rfl

/-- Settles O26: a word that decodes is an encoding, whose fixed bits tell the view. -/
theorem viewsShareNoWord : Obligations.ViewsShareNoWord := by
  intro u v w i j hi hj
  obtain ⟨hviewI, -, hencodeI⟩ := encode_of_decodeWord hi
  obtain ⟨hviewJ, -, hencodeJ⟩ := encode_of_decodeWord hj
  have hview : ∀ k : Instr, encode k = w → k.view = viewOfWord w := by
    rintro k rfl
    exact (viewOfWord_encode k).symm
  obtain rfl : u = v := by rw [← hviewI, ← hviewJ, hview i hencodeI, hview j hencodeJ]
  exact ⟨rfl, Except.ok.inj (hi.symm.trans hj)⟩

/-- Settles O27. -/
theorem sampleWordsDecode : Obligations.SampleWordsDecode :=
  ⟨decodeOfEncode (.addExt32 2#5 .sxtb 0#3 1#5 0#5) rfl, decodeOfEncode (.addExt64 1#5 .sxtw 3#3 31#5 0#5) rfl,
    decodeOfEncode (.crc32wA1 14#4 false 3#4 2#4 0#2 0#1 4#4) rfl, decodeOfEncode (.crc32hT1 3#4 2#4 4#4) rfl,
    decodeOfEncode (.crc32cxA64 true 5#5 4#5 3#5) rfl⟩

end Sys2Proof
end

section
/-! SUPPORT. The CRC function: the loop of `Poly32Mod2` as a polynomial remainder (spec/00_scope.md R18), and `CRC` by its
bit-serial form (spec/41_a32_t32_crc32.md R85). -/

namespace Sys2Proof.Machine

open Polynomial Statements

/-! ### `Poly32Mod2` is a remainder (R18) -/

/-- The low `count` bits as a polynomial. -/
noncomputable def lowPoly {n : Nat} (count : Nat) (b : BitVec n) : Polynomial (ZMod 2) :=
  ∑ k ∈ Finset.range count, if b.getLsbD k then X ^ k else 0

theorem toPoly_eq_lowPoly {n : Nat} (b : BitVec n) : toPoly b = lowPoly n b := rfl

theorem lowPoly_succ {n : Nat} (count : Nat) (b : BitVec n) :
    lowPoly (count + 1) b = lowPoly count b + if b.getLsbD count then X ^ count else 0 :=
  Finset.sum_range_succ ..

/-- Only the bits counted matter, whatever width they stand in. -/
theorem lowPoly_congr {m n count : Nat} {a : BitVec m} {b : BitVec n} (h : ∀ k < count, a.getLsbD k = b.getLsbD k) :
    lowPoly count a = lowPoly count b :=
  Finset.sum_congr rfl fun k hk => by rw [h k (Finset.mem_range.mp hk)]

/-- Over the field of two elements xor is addition. -/
theorem lowPoly_xor {n : Nat} (count : Nat) (a b : BitVec n) :
    lowPoly count (a ^^^ b) = lowPoly count a + lowPoly count b := by
  rw [lowPoly, lowPoly, lowPoly, ← Finset.sum_add_distrib]
  refine Finset.sum_congr rfl fun k _ => ?_
  cases ha : a.getLsbD k <;> cases hb : b.getLsbD k <;> simp [ha, hb, CharTwo.add_self_eq_zero]

/-- A shift to the left multiplies by a power of `t`. -/
theorem lowPoly_shiftLeft {n : Nat} (poly : Word) (j : Nat) (hj : 32 + j ≤ n) :
    lowPoly (32 + j) (poly.setWidth n <<< j) = X ^ j * toPoly poly := by
  rw [lowPoly, toPoly, Nat.add_comm, Finset.sum_range_add, Finset.mul_sum]
  have hlow : ∀ k ∈ Finset.range j, (if (poly.setWidth n <<< j).getLsbD k then (X : (ZMod 2)[X]) ^ k else 0) = 0 := by
    intro k hk
    simp [Finset.mem_range.mp hk]
  rw [Finset.sum_eq_zero hlow, zero_add]
  refine Finset.sum_congr rfl fun k hk => ?_
  have hk : k < 32 := Finset.mem_range.mp hk
  have hin : j + k < n := by omega
  have hbit : (poly.setWidth n <<< j).getLsbD (j + k) = poly.getLsbD k := by simp [hin]
  rw [hbit, mul_ite, mul_zero, pow_add]

/-- The divisor of `Poly32Mod2`. -/
noncomputable def crcDivisor (poly : Word) : Polynomial (ZMod 2) := X ^ 32 + toPoly poly

/-- A word is a polynomial of degree below 32. -/
theorem degree_toPoly_lt (b : Word) : (toPoly b).degree < ((32 : ℕ) : WithBot ℕ) := by
  rw [← mem_degreeLT]
  refine Submodule.sum_mem _ fun k hk => mem_degreeLT.mpr ?_
  have hk : k < 32 := Finset.mem_range.mp hk
  split
  · rw [degree_X_pow]
    exact_mod_cast hk
  · rw [degree_zero]
    exact WithBot.bot_lt_coe 32

theorem crcDivisor_monic (poly : Word) : (crcDivisor poly).Monic :=
  monic_X_pow_add (degree_toPoly_lt poly)

theorem degree_crcDivisor (poly : Word) : (crcDivisor poly).degree = ((32 : ℕ) : WithBot ℕ) := by
  rw [crcDivisor, degree_add_eq_left_of_degree_lt, degree_X_pow]
  rw [degree_X_pow]
  exact degree_toPoly_lt poly

/-- One turn: cancelling bit `32 + j` subtracts a multiple of the divisor. -/
theorem crcDivisor_dvd_turn {n : Nat} (poly : Word) (j : Nat) (hj : 32 + j < n) (data : BitVec n) :
    crcDivisor poly ∣ lowPoly (32 + (j + 1)) data -
      lowPoly (32 + j) (if data.getLsbD (32 + j) then data ^^^ (poly.setWidth n <<< j) else data) := by
  rw [← Nat.add_assoc, lowPoly_succ]
  cases data.getLsbD (32 + j)
  · simp
  · rw [if_pos rfl, if_pos rfl, lowPoly_xor, lowPoly_shiftLeft poly j hj.le]
    refine ⟨X ^ j, ?_⟩
    rw [crcDivisor, CharTwo.sub_eq_add, pow_add]
    linear_combination CharTwo.add_self_eq_zero (lowPoly (32 + j) data)

/-- The loop keeps the remainder of the bits not yet dropped. -/
theorem lowPoly_polyReduce_modByMonic {n : Nat} (poly : Word) (j : Nat) (hj : 32 + j ≤ n) (data : BitVec n) :
    lowPoly 32 (polyReduce poly j data) %ₘ crcDivisor poly = lowPoly (32 + j) data %ₘ crcDivisor poly := by
  induction j generalizing data with
  | zero => rfl
  | succ j ih =>
    rw [polyReduce, ih (by omega)]
    exact (modByMonic_eq_of_dvd_sub (crcDivisor_monic poly) (crcDivisor_dvd_turn poly j (by omega) data)).symm

theorem bitReverse_getLsbD {n : Nat} (data : BitVec n) (i : Nat) (hi : i < n) :
    (bitReverse data).getLsbD i = data.getLsbD (n - 1 - i) := by
  rw [bitReverse, BitVec.getLsbD_reverse, BitVec.getMsbD, decide_eq_true hi, Bool.true_and]

/-- Settles O5: the loop keeps the remainder and leaves a polynomial of degree below 32, its own remainder. -/
theorem polyRemainder : Obligations.PolyRemainder := by
  refine ⟨fun n data i hi => bitReverse_getLsbD data i hi, fun n data poly hn => ?_⟩
  have hwidth : toPoly (poly32Mod2 data poly) = lowPoly 32 (polyReduce poly (n - 32) data) :=
    lowPoly_congr fun k hk => by simp [poly32Mod2, hk]
  have hsmall : toPoly (poly32Mod2 data poly) %ₘ crcDivisor poly = toPoly (poly32Mod2 data poly) :=
    (modByMonic_eq_self_iff (crcDivisor_monic poly)).mpr (by rw [degree_crcDivisor]; exact degree_toPoly_lt _)
  have hall : 32 + (n - 32) = n := by omega
  rw [← hsmall, hwidth, lowPoly_polyReduce_modByMonic poly (n - 32) hall.le data, hall, toPoly_eq_lowPoly data, crcDivisor]

end Sys2Proof.Machine
end

section
/-! SUPPORT. `CRC` by its bit-serial form (spec/41_a32_t32_crc32.md R85), and the form's consequences. -/

namespace Sys2Proof.Machine

/-! ### The two forms are one function -/

theorem bitReverse_crcPoly (crc32c : Bool) : bitReverse (crcPoly crc32c) = crcRpoly crc32c := by
  cases crc32c <;> decide +kernel

/-- Bit by bit: `rpoly` is the polynomial read from its other end. -/
theorem crcRpoly_getLsbD (crc32c : Bool) (k : Nat) (hk : k < 32) :
    (crcRpoly crc32c).getLsbD k = (crcPoly crc32c).getLsbD (31 - k) := by
  rw [← bitReverse_crcPoly, bitReverse_getLsbD _ k hk]

/-- The polynomial lined up by a shift to the left is `rpoly` read from the other end. -/
theorem crcPoly_shiftLeft_getLsbD (crc32c : Bool) {n j p : Nat} (hp : p < 32 + j) (hj : 32 + j ≤ n) :
    ((crcPoly crc32c).setWidth n <<< j).getLsbD p = (crcRpoly crc32c).getLsbD (31 + j - p) := by
  by_cases hpj : p < j
  · rw [BitVec.getLsbD_of_ge _ (31 + j - p) (by omega)]
    simp [hpj]
  · have hin : p < n := by omega
    rw [crcRpoly_getLsbD _ _ (by omega), show 31 - (31 + j - p) = p - j by omega]
    simp [hpj, hin]

/-- Bit by bit, one turn of the loop of R85. -/
theorem crcSerialStep_getLsbD (crc32c : Bool) (s : Word) (b : Bool) (k : Nat) :
    (crcSerialStep crc32c s b).getLsbD k =
      (s.getLsbD (k + 1) ^^ ((s.getLsbD 0 != b) && (crcRpoly crc32c).getLsbD k)) := by
  rw [crcSerialStep, BitVec.getLsbD_xor, BitVec.getLsbD_ushiftRight, Nat.add_comm 1 k]
  cases s.getLsbD 0 != b <;> simp

/-- What is left to reduce with `j` turns to go, when the accumulator of R85 is `acc`: the mirrored accumulator in the 32
bits from bit `j` up, and the mirrored data not yet taken, xored together. (A bit number below `j` makes the accumulator's
bit number one above its top, where it reads zero, and likewise for the data.) -/
def ReducesTo {n size : Nat} (acc : Word) (val : BitVec size) (j : Nat) (data : BitVec n) : Prop :=
  ∀ p < 32 + j, data.getLsbD p = (acc.getLsbD (31 + j - p) ^^ val.getLsbD (31 + size - p))

/-- One turn of the loop of `Poly32Mod2` is one turn of the loop of R85. -/
theorem ReducesTo.turn {n size j : Nat} {acc : Word} {val : BitVec size} {data : BitVec n} {crc32c : Bool}
    (h : ReducesTo acc val (j + 1) data) (hj : 32 + j < n) :
    ReducesTo (crcSerialStep crc32c acc (val.getLsbD (size - (j + 1)))) val j
      (if data.getLsbD (32 + j) then data ^^^ ((crcPoly crc32c).setWidth n <<< j) else data) := by
  intro p hp
  have htop : data.getLsbD (32 + j) = (acc.getLsbD 0 != val.getLsbD (size - (j + 1))) := by
    rw [h (32 + j) (by omega), show 31 + (j + 1) - (32 + j) = 0 by omega,
      show 31 + size - (32 + j) = size - (j + 1) by omega]
  have hbit := h p (by omega)
  rw [show 31 + (j + 1) - p = 31 + j - p + 1 by omega] at hbit
  rw [crcSerialStep_getLsbD, ← htop, ← crcPoly_shiftLeft_getLsbD crc32c hp hj.le]
  cases data.getLsbD (32 + j)
  · simpa using hbit
  · rw [if_pos rfl, BitVec.getLsbD_xor, hbit, Bool.true_and, Bool.xor_right_comm]

/-- The loops of the two forms end together. -/
theorem ReducesTo.polyReduce {n size : Nat} {acc : Word} {val : BitVec size} {crc32c : Bool} {j : Nat}
    (hj : j ≤ size) (hn : 32 + j ≤ n) {data : BitVec n}
    (h : ReducesTo (crcSerialTurns acc val crc32c (size - j)) val j data) :
    ReducesTo (crcSerial size acc val crc32c) val 0 (polyReduce (crcPoly crc32c) j data) := by
  induction j generalizing data with
  | zero => exact h
  | succ j ih =>
    have hturn : size - j = size - (j + 1) + 1 := by omega
    rw [Machine.polyReduce]
    refine ih (by omega) (by omega) ?_
    rw [hturn]
    exact h.turn (by omega)

/-- A mirrored bit string with zeros below it, bit by bit. -/
theorem bitReverse_append_zero_getLsbD {n m : Nat} (b : BitVec n) (p : Nat) (hp : p < m + n) :
    (bitReverse b ++ 0#m).getLsbD p = b.getLsbD (n + m - 1 - p) := by
  rw [BitVec.getLsbD_append]
  by_cases hpm : p < m
  · rw [BitVec.getLsbD_of_ge b _ (by omega)]
    simp [hpm]
  · rw [bitReverse_getLsbD _ _ (by omega), show n - 1 - (p - m) = n + m - 1 - p by omega]
    simp [hpm]

/-- Settles O6: both loops start from the mirrored accumulator and data, and turn by turn they agree. -/
theorem crcSerialForm : Obligations.CrcSerialForm := by
  intro size acc val crc32c
  have hstart : ReducesTo (crcSerialTurns acc val crc32c (size - size)) val size
      ((bitReverse acc ++ 0#size : BitVec (32 + size)) ^^^ (bitReverse val ++ 0#32).cast (Nat.add_comm size 32)) := by
    intro p hp
    rw [Nat.sub_self, BitVec.getLsbD_xor, BitVec.getLsbD_cast, bitReverse_append_zero_getLsbD acc p (by omega),
      bitReverse_append_zero_getLsbD val p hp, crcSerialTurns, show 32 + size - 1 - p = 31 + size - p by omega,
      show size + 32 - 1 - p = 31 + size - p by omega]
  have hend := hstart.polyReduce le_rfl le_rfl
  apply BitVec.eq_of_getLsbD_eq
  intro k hk
  have hbit := hend (31 - k) (by omega)
  rw [show 31 + 0 - (31 - k) = k by omega, BitVec.getLsbD_of_ge val _ (by omega), Bool.xor_false] at hbit
  rw [crc, bitReverse_getLsbD _ k hk, poly32Mod2, BitVec.getLsbD_setWidth, decide_eq_true (by omega), Bool.true_and,
    Nat.add_sub_cancel_left]
  exact hbit

/-! ### Consequences -/

/-- The turns look at the bits of the data they take, and at nothing else. -/
theorem crcSerialTurns_congr {m n : Nat} {v : BitVec m} {w : BitVec n} (acc : Word) (crc32c : Bool) {count : Nat}
    (h : ∀ i < count, v.getLsbD i = w.getLsbD i) :
    crcSerialTurns acc v crc32c count = crcSerialTurns acc w crc32c count := by
  induction count with
  | zero => rfl
  | succ i ih => rw [crcSerialTurns, crcSerialTurns, ih fun k hk => h k (by omega), h i (by omega)]

/-- Turns after turns: the later ones start from what the earlier ones left, on the data shifted down. -/
theorem crcSerialTurns_add {n : Nat} (acc : Word) (v : BitVec n) (crc32c : Bool) (k count : Nat) :
    crcSerialTurns acc v crc32c (k + count) = crcSerialTurns (crcSerialTurns acc v crc32c k) (v >>> k) crc32c count := by
  induction count with
  | zero => rfl
  | succ i ih => rw [← Nat.add_assoc, crcSerialTurns, ih, crcSerialTurns, BitVec.getLsbD_ushiftRight]

/-- A turn is linear: the bit that decides on `rpoly` is an xor too. -/
theorem crcSerialStep_xor (crc32c : Bool) (s t : Word) (b c : Bool) :
    crcSerialStep crc32c (s ^^^ t) (b ^^ c) = crcSerialStep crc32c s b ^^^ crcSerialStep crc32c t c := by
  have hbits : ∀ s₀ t₀ b c s₁ t₁ r : Bool, ((s₁ ^^ t₁) ^^ (((s₀ ^^ t₀) != (b ^^ c)) && r)) =
      ((s₁ ^^ ((s₀ != b) && r)) ^^ (t₁ ^^ ((t₀ != c) && r))) := by decide
  apply BitVec.eq_of_getLsbD_eq
  intro k _
  simp only [BitVec.getLsbD_xor, crcSerialStep_getLsbD]
  exact hbits ..

theorem crcSerialTurns_xor {n : Nat} (a b : Word) (v w : BitVec n) (crc32c : Bool) (count : Nat) :
    crcSerialTurns (a ^^^ b) (v ^^^ w) crc32c count =
      crcSerialTurns a v crc32c count ^^^ crcSerialTurns b w crc32c count := by
  induction count with
  | zero => rfl
  | succ i ih => rw [crcSerialTurns, ih, BitVec.getLsbD_xor, crcSerialStep_xor, ← crcSerialTurns, ← crcSerialTurns]

/-- Settles O7: the turns of the high half come after those of the low half; each turn is linear. -/
theorem crcChainsAndIsLinear : Obligations.CrcChainsAndIsLinear := by
  refine ⟨fun k acc v c => ?_, fun size a b v w c => ?_⟩
  · simp only [crcSerialForm _ _ _ _, crcSerial]
    refine (congrArg (crcSerialTurns acc v c) (Nat.two_mul k)).trans ?_
    rw [crcSerialTurns_add]
    have hlow : crcSerialTurns acc v c k = crcSerialTurns acc (v.extractLsb' 0 k) c k :=
      crcSerialTurns_congr acc c fun i hi => by simp [hi]
    rw [hlow]
    exact crcSerialTurns_congr _ c fun i hi => by simp [hi]
  · simp only [crcSerialForm _ _ _ _, crcSerial, crcSerialTurns_xor]

/-- Turns from an accumulator are turns from zero on the data xored with it, the rest of it shifted down. -/
theorem crcSerialTurns_zero {size : Nat} (acc : Word) (v : BitVec size) (c : Bool) {count : Nat} (hcount : count ≤ size) :
    crcSerialTurns acc v c count =
      crcSerialTurns 0#32 (acc.setWidth size ^^^ v) c count ^^^ (acc >>> count) := by
  induction count with
  | zero => simp [crcSerialTurns]
  | succ i ih =>
    rw [crcSerialTurns, ih (by omega), crcSerialTurns]
    have hbit : v.getLsbD i = ((acc.setWidth size ^^^ v).getLsbD i ^^ acc.getLsbD i) := by
      have hi : i < size := hcount
      rw [BitVec.getLsbD_xor, BitVec.getLsbD_setWidth, decide_eq_true hi, Bool.true_and]
      cases acc.getLsbD i <;> simp
    have hshift : crcSerialStep c (acc >>> i) (acc.getLsbD i) = acc >>> (i + 1) := by
      simp [crcSerialStep, BitVec.shiftRight_add]
    rw [hbit, crcSerialStep_xor, hshift]

/-- Settles O8: after `size` turns every bit of the data has met its bit of the accumulator. A word folded into itself is
the fold of zero, which linearity makes zero. -/
theorem crcDataMeetsAccumulator : Obligations.CrcDataMeetsAccumulator := by
  have hmeets : ∀ (size : Nat) (acc : Word) (v : BitVec size) (c : Bool),
      crc size acc v c = crc size 0#32 (acc.setWidth size ^^^ v) c ^^^ (acc >>> size) := by
    intro size acc v c
    rw [crcSerialForm, crcSerialForm]
    exact crcSerialTurns_zero acc v c le_rfl
  refine ⟨fun size acc v c _ => hmeets size acc v c, fun a c => ?_⟩
  have hzero : crc 32 0#32 0#32 c = 0#32 := by
    obtain ⟨-, hlinear⟩ := crcChainsAndIsLinear
    have hself := hlinear 32 0#32 0#32 0#32 0#32 c
    rwa [BitVec.xor_self, BitVec.xor_self] at hself
  rw [hmeets, BitVec.setWidth_eq, BitVec.xor_self, hzero, BitVec.zero_xor]
  exact BitVec.ushiftRight_eq_zero le_rfl

/-- Settles O9: seventy-two turns of the bit-serial form, computed. -/
theorem crcCheckValues : Obligations.CrcCheckValues := by
  simp only [Obligations.CrcCheckValues, crcSerialForm _ _ _ _]
  decide +kernel

end Sys2Proof.Machine
end

section
/-! SUPPORT. Which words the configuration's two switches admit (spec/30_encoding.md R63;
spec/42_a64_crc32c_named_in_title.md R100, R102). -/

namespace Sys2Proof

theorem decode_ok_iff {cfg : Config} {v : View} {w : Word} {i : Instr} :
    decode cfg v w = .ok i ↔ decodeWord v w = .ok i ∧ i.admitted cfg = true := by
  refine ⟨Machine.decode_ok cfg v w i, ?_⟩
  rintro ⟨hword, hadmitted⟩
  rw [decode, hword]
  exact if_pos hadmitted

theorem Instr.view_of_isTitleRow {i : Instr} (h : i.isTitleRow = true) : i.view = .a64 := by
  revert h
  cases i <;> simp [Instr.isTitleRow, Instr.view]

theorem Instr.view_of_isCOneRow {i : Instr} (h : i.isCOneRow = true) : i.view ≠ .a64 := by
  revert h
  cases i <;> simp [Instr.isCOneRow, Instr.view]

/-- The AArch32 rows ask for one switch, and only where C = 1 (R63). -/
theorem Instr.admitted_iff_of_aarch32 {i : Instr} (hview : i.view ≠ .a64) (cfg : Config) :
    i.admitted cfg = true ↔ (i.isCOneRow = true → cfg.admitA32Crc32c = true) := by
  have htitle : i.isTitleRow = false := Bool.eq_false_iff.mpr fun h => hview (Instr.view_of_isTitleRow h)
  cases hc : i.isCOneRow <;> simp [Instr.admitted, htitle, hc]

/-- The A64 rows ask for the other, and only the four the title names (R100). -/
theorem Instr.admitted_iff_of_a64 {i : Instr} (hview : i.view = .a64) (cfg : Config) :
    i.admitted cfg = true ↔ (i.isTitleRow = true → cfg.admitTitleCrc32c = true) := by
  have hc : i.isCOneRow = false := Bool.eq_false_iff.mpr fun h => Instr.view_of_isCOneRow h hview
  cases htitle : i.isTitleRow <;> simp [Instr.admitted, htitle, hc]

/-- R54: bit 9 of an A1 word is C. -/
theorem encode_getLsbD_nine {i : Instr} (hview : i.view = .a32) : (encode i).getLsbD 9 = i.isCOneRow := by
  cases i with
  | crc32bA1 cond rn rd sbzHi sbz8 rm | crc32hA1 cond rn rd sbzHi sbz8 rm | crc32cbA1 cond rn rd sbzHi sbz8 rm
  | crc32chA1 cond rn rd sbzHi sbz8 rm | crc32wA1 cond _ rn rd sbzHi sbz8 rm | crc32cwA1 cond _ rn rd sbzHi sbz8 rm =>
    obtain ⟨-, -, -, -, -, -, -, hc, -⟩ := encodeA1_fields cond rn rd rm _ sbzHi _ sbz8
    rw [encode, getLsbD_of_extractLsb' hc 0 (by decide)]
    rfl
  | _ => cases hview

/-- R56: bit 4 of `hw1` of a T1 pair is C. -/
theorem encode_getLsbD_twenty {i : Instr} (hview : i.view = .t32) : (encode i).getLsbD 20 = i.isCOneRow := by
  cases i with
  | crc32bT1 rn rd rm | crc32hT1 rn rd rm | crc32cbT1 rn rd rm | crc32chT1 rn rd rm | crc32wT1 rn rd _ rm
  | crc32cwT1 rn rd _ rm =>
    obtain ⟨-, hc, -⟩ := encodeT1_fields rn rd rm _ _
    rw [encode, getLsbD_of_extractLsb' hc 0 (by decide)]
    rfl
  | _ => cases hview

/-- R102's fixed bits are those of a title row's word. -/
theorem encodeCrcA64_masked_fixed (sf : Bool) (rm rn rd : BitVec 5) (sz : BitVec 2) :
    encodeCrcA64 sf rm sz rn rd &&& 0x7FE0F000#32 = 0x1AC05000#32 := by
  have hsz : ∀ sz : BitVec 2, ((sz.setWidth 32 <<< 10) ||| 0x1AC05000#32) &&& 0x7FE0F000#32 = 0x1AC05000#32 := by decide
  rw [← hsz sz, ← encodeCrcA64_masked rm rn rd sz sf, BitVec.and_assoc]
  rfl

/-- R51: bits 30:21 of an ADD word are not those of R102. -/
theorem encodeAddExt_masked_fixed_ne (sf : BitVec 1) (rm rn rd : BitVec 5) (option : ExtendType) (imm3 : BitVec 3) :
    encodeAddExt sf rm option imm3 rn rd &&& 0x7FE0F000#32 ≠ 0x1AC05000#32 := by
  intro hmasked
  obtain ⟨-, hfix, -⟩ := encodeAddExt_fields sf rm rn rd option imm3
  have hfix' := extractLsb'_of_masked (start := 21) (len := 10) hmasked (by decide)
  exact absurd (hfix.symm.trans hfix') (by decide)

theorem encode_masked_fixed_iff {i : Instr} (hview : i.view = .a64) :
    encode i &&& 0x7FE0F000#32 = 0x1AC05000#32 ↔ i.isTitleRow = true := by
  cases i with
  | addExt32 rm option imm3 rn rd | addExt64 rm option imm3 rn rd =>
    exact iff_of_false (encodeAddExt_masked_fixed_ne _ _ _ _ _ _) Bool.false_ne_true
  | crc32cbA64 sf rm rn rd | crc32chA64 sf rm rn rd | crc32cwA64 sf rm rn rd | crc32cxA64 sf rm rn rd =>
    exact iff_of_true (encodeCrcA64_masked_fixed ..) rfl
  | _ => cases hview

/-- R63: the A1 words with C = 1, and no others, need their switch. -/
theorem decode_a32_iff (cfg : Config) (w : Word) (i : Instr) :
    decode cfg .a32 w = .ok i ↔ decodeWord .a32 w = .ok i ∧ (w.getLsbD 9 = true → cfg.admitA32Crc32c = true) := by
  refine decode_ok_iff.trans (and_congr_right fun hword => ?_)
  obtain ⟨hview, -, rfl⟩ := encode_of_decodeWord hword
  rw [Instr.admitted_iff_of_aarch32 (by rw [hview]; decide), encode_getLsbD_nine hview]

/-- R63: the T1 pairs with C = 1, and no others, need their switch. -/
theorem decode_t32_iff (cfg : Config) (w : Word) (i : Instr) :
    decode cfg .t32 w = .ok i ↔ decodeWord .t32 w = .ok i ∧ (w.getLsbD 20 = true → cfg.admitA32Crc32c = true) := by
  refine decode_ok_iff.trans (and_congr_right fun hword => ?_)
  obtain ⟨hview, -, rfl⟩ := encode_of_decodeWord hword
  rw [Instr.admitted_iff_of_aarch32 (by rw [hview]; decide), encode_getLsbD_twenty hview]

/-- R100: the words with R102's fixed bits, and no others, need theirs. -/
theorem decode_a64_iff (cfg : Config) (w : Word) (i : Instr) :
    decode cfg .a64 w = .ok i ↔
      decodeWord .a64 w = .ok i ∧ (w &&& 0x7FE0F000#32 = 0x1AC05000#32 → cfg.admitTitleCrc32c = true) := by
  refine decode_ok_iff.trans (and_congr_right fun hword => ?_)
  obtain ⟨hview, -, rfl⟩ := encode_of_decodeWord hword
  rw [Instr.admitted_iff_of_a64 hview, encode_masked_fixed_iff hview]

theorem decode_a64_iff_of_isTitleRow (cfg : Config) (w : Word) (i : Instr) (hword : decodeWord .a64 w = .ok i)
    (htitle : i.isTitleRow = true) : decode cfg .a64 w = .ok i ↔ cfg.admitTitleCrc32c = true := by
  rw [decode_ok_iff, and_iff_right hword, Instr.admitted_iff_of_a64 (Instr.view_of_isTitleRow htitle),
    forall_prop_of_true htitle]

end Sys2Proof
end

section
/-! SUPPORT. The A64 CRC32C rows by the record: the words of each, the state it completes with, and its one fault
(spec/42_a64_crc32c_named_in_title.md R102 to R107). -/

namespace Sys2Proof

/-- The `sf` that a row's `sz` asks for (R103). -/
def sfOfSz (sz : BitVec 2) : Bool := sz == 0b11#2

/-- The word that R102's mask leaves: the format's fixed bits with `sf` and `sz`. -/
def crcA64Match (sf : Bool) (sz : BitVec 2) : Word :=
  ((BitVec.ofBool sf).setWidth 32 <<< 31) ||| (sz.setWidth 32 <<< 10) ||| 0x1AC05000#32

theorem encodeCrcA64_masked_sf (sf : Bool) (rm rn rd : BitVec 5) (sz : BitVec 2) :
    encodeCrcA64 sf rm sz rn rd &&& 0xFFE0FC00#32 = crcA64Match sf sz := by
  apply BitVec.eq_of_getLsbD_eq
  intro i hi
  simp only [encodeCrcA64, crcA64Match, BitVec.getLsbD_and, BitVec.getLsbD_or, BitVec.getLsbD_append,
    BitVec.getLsbD_shiftLeft, BitVec.getLsbD_setWidth]
  interval_cases i <;> simp

theorem crcA64Match_fields (sf : Bool) (sz : BitVec 2) :
    (crcA64Match sf sz).extractLsb' 31 1 = BitVec.ofBool sf ∧ (crcA64Match sf sz).extractLsb' 21 10 = 0b0011010110#10 ∧
      (crcA64Match sf sz).extractLsb' 12 4 = 0b0101#4 ∧ (crcA64Match sf sz).extractLsb' 10 2 = sz := by
  revert sf sz
  decide

namespace Machine

open Statements

/-! ### The instruction (R103, R104) -/

/-- `Rm` is read at the width its low bits are taken from (R104). -/
theorem State.xRead_crcDataWidth (s : State) (rm : BitVec 5) (sz : BitVec 2) :
    (s.xRead rm (crcDataWidth (sizeOfSz sz))).setWidth (sizeOfSz sz) = (xReg s rm).setWidth (sizeOfSz sz) := by
  rw [State.xRead_eq_xReg]
  rcases bitVec2_cases sz with rfl | rfl | rfl | rfl <;> exact BitVec.setWidth_setWidth_of_le _ (by decide)

theorem State.checksCrcA64_eq (s : State) (sf : Bool) (sz : BitVec 2) :
    s.checksCrcA64 sf sz =
      if s.cfg.haveCrc = true ∧ sf = sfOfSz sz then .pass (sizeOfSz sz) else .stop .undefined := by
  rw [State.checksCrcA64, State.checkCrcExt_eq, sfOfSz]
  cases s.cfg.haveCrc <;> cases sf <;> by_cases hsz : sz = 0b11#2 <;> simp [hsz]

/-- With the extension and the row's own `sf` the instruction completes. -/
theorem crcA64_of_match (word : Word) {sz : BitVec 2} {sf : Bool} (rm rn rd : BitVec 5) {s : State}
    (hext : s.cfg.haveCrc = true) (hsf : sf = sfOfSz sz) :
    crcA64 word sz sf rm rn rd s = .next (crc64Done (sizeOfSz sz) rm rn rd s) := by
  rw [crcA64, State.checksCrcA64_eq, if_pos ⟨hext, hsf⟩]
  simp only [State.xRead_crcDataWidth, State.xRead_eq_xReg s rn 32, State.xWrite_eq]
  rfl

/-- Without them it is UNDEFINED. -/
theorem crcA64_of_mismatch (word : Word) {sz : BitVec 2} {sf : Bool} (rm rn rd : BitVec 5) {s : State}
    (h : ¬(s.cfg.haveCrc = true ∧ sf = sfOfSz sz)) : crcA64 word sz sf rm rn rd s = .fault (.undefined word) := by
  rw [crcA64, State.checksCrcA64_eq, if_neg h]
  rfl

/-! ### The rows -/

/-- What picks out one A64 CRC32C row of the model. -/
structure IsA64CrcRow (sz : BitVec 2) (row : Bool → BitVec 5 → BitVec 5 → BitVec 5 → Instr) : Prop where
  decode_eq : ∀ w : Word, w.extractLsb' 10 2 = sz → decodeCrcA64 w =
    row (w.extractLsb' 31 1 == 1#1) (w.extractLsb' 16 5) (w.extractLsb' 5 5) (w.extractLsb' 0 5)
  encode_eq : ∀ sf rm rn rd, encode (row sf rm rn rd) = encodeCrcA64 sf rm sz rn rd
  exec_eq : ∀ sf rm rn rd s, exec (row sf rm rn rd) s = crcA64 (encode (row sf rm rn rd)) sz sf rm rn rd s

/-- R102: the words of a row are those of its mask and match. -/
theorem IsA64CrcRow.masked_iff_decode {sz : BitVec 2} {row : Bool → BitVec 5 → BitVec 5 → BitVec 5 → Instr}
    (hrow : IsA64CrcRow sz row) (sf : Bool) (w : Word) :
    w &&& 0xFFE0FC00#32 = crcA64Match sf sz ↔ ∃ rm rn rd, decodeWord .a64 w = .ok (row sf rm rn rd) := by
  constructor
  · intro hmasked
    obtain ⟨hsf, hfixHi, hfixLo, hsz⟩ := crcA64Match_fields sf sz
    have hsf := (extractLsb'_of_masked hmasked (by decide)).trans hsf
    have hfixHi := (extractLsb'_of_masked hmasked (by decide)).trans hfixHi
    have hfixLo := (extractLsb'_of_masked hmasked (by decide)).trans hfixLo
    have hsz := (extractLsb'_of_masked hmasked (by decide)).trans hsz
    refine ⟨w.extractLsb' 16 5, w.extractLsb' 5 5, w.extractLsb' 0 5, ?_⟩
    rw [decodeWord, decodeA64, if_neg (by rw [hfixHi]; decide), if_pos ⟨hfixHi, hfixLo⟩, hrow.decode_eq w hsz, hsf,
      ofBool_beq_one]
  · rintro ⟨rm, rn, rd, hdecode⟩
    obtain ⟨-, -, hencode⟩ := encode_of_decodeWord hdecode
    rw [← hencode, hrow.encode_eq]
    exact encodeCrcA64_masked_sf ..

/-- A row is what the spec's table of A64 CRC32C rows says (R103, R104). -/
theorem IsA64CrcRow.a64CrcRow {sz : BitVec 2} {row : Bool → BitVec 5 → BitVec 5 → BitVec 5 → Instr}
    (hrow : IsA64CrcRow sz row) : A64CrcRow (crcA64Match (sfOfSz sz) sz) (sizeOfSz sz) (sfOfSz sz) row := by
  refine ⟨hrow.masked_iff_decode (sfOfSz sz), fun rm rn rd s hext => ?_, fun rm rn rd s hext => ?_,
    fun rm rn rd s => ?_⟩ <;> rw [hrow.exec_eq]
  · exact crcA64_of_match _ rm rn rd hext rfl
  · exact crcA64_of_mismatch _ rm rn rd (by simp [hext])
  · exact crcA64_of_mismatch _ rm rn rd (by simp)

/-- R104. -/
theorem isA64CrcRow_crc32cbA64 : IsA64CrcRow 0b00#2 .crc32cbA64 where
  decode_eq w hsz := by rw [decodeCrcA64, hsz]; rfl
  encode_eq _ _ _ _ := rfl
  exec_eq _ _ _ _ _ := rfl

/-- R105. -/
theorem isA64CrcRow_crc32chA64 : IsA64CrcRow 0b01#2 .crc32chA64 where
  decode_eq w hsz := by rw [decodeCrcA64, hsz]; rfl
  encode_eq _ _ _ _ := rfl
  exec_eq _ _ _ _ _ := rfl

/-- R106. -/
theorem isA64CrcRow_crc32cwA64 : IsA64CrcRow 0b10#2 .crc32cwA64 where
  decode_eq w hsz := by rw [decodeCrcA64, hsz]; rfl
  encode_eq _ _ _ _ := rfl
  exec_eq _ _ _ _ _ := rfl

/-- R107. -/
theorem isA64CrcRow_crc32cxA64 : IsA64CrcRow 0b11#2 .crc32cxA64 where
  decode_eq w hsz := by rw [decodeCrcA64, hsz]; rfl
  encode_eq _ _ _ _ := rfl
  exec_eq _ _ _ _ _ := rfl

/-- Settles O14: the four rows by the one account of a row, and the switch by R102's fixed bits. -/
theorem crc32cA64Rows : Obligations.Crc32cA64Rows :=
  ⟨isA64CrcRow_crc32cbA64.a64CrcRow, isA64CrcRow_crc32chA64.a64CrcRow, isA64CrcRow_crc32cwA64.a64CrcRow,
    isA64CrcRow_crc32cxA64.a64CrcRow, decode_a64_iff, decode_a64_iff_of_isTitleRow⟩

end Machine

end Sys2Proof
end

section
/-! SUPPORT. The AArch32 CRC rows: encoding A1 by the record, the C = 1 twins of both encodings, and the constrained choices
that vary from execution to execution (spec/41_a32_t32_crc32.md R82 to R97; spec/92_eei_decisions.md D8). -/

namespace Sys2Proof

/-! ### The words of an A1 row -/

/-- The word that R55's mask leaves: the format's fixed bits with condition 1110, C and `sz`, the "(0)" bits clear. -/
def a1Match (c : BitVec 1) (sz : BitVec 2) : Word := (sz.setWidth 32 <<< 21) ||| (c.setWidth 32 <<< 9) ||| 0xE1000040#32

/-- The fixed bits of format A1 (R54), which `decodeA32` asks for, and condition 1110. -/
def A1AlwaysFormat (w : Word) : Prop :=
  w.extractLsb' 28 4 = 14#4 ∧ w.extractLsb' 23 5 = 0b00010#5 ∧ w.extractLsb' 20 1 = 0b0#1 ∧
    w.extractLsb' 10 2 = 0#2 ∧ w.extractLsb' 8 1 = 0#1 ∧ w.extractLsb' 4 4 = 0b0100#4

theorem a1Match_fields (c : BitVec 1) (sz : BitVec 2) :
    A1AlwaysFormat (a1Match c sz) ∧ (a1Match c sz).extractLsb' 9 1 = c ∧ (a1Match c sz).extractLsb' 21 2 = sz := by
  unfold A1AlwaysFormat
  revert c sz
  decide

/-- R55: a word the mask sends to a row's match has the format, and the row's C and `sz`. -/
theorem a1AlwaysFormat_of_masked {w : Word} {c : BitVec 1} {sz : BitVec 2} (hmasked : w &&& 0xFFF00FF0#32 = a1Match c sz) :
    A1AlwaysFormat w ∧ w.extractLsb' 9 1 = c ∧ w.extractLsb' 21 2 = sz := by
  obtain ⟨⟨hcond, hfix23, hfix20, hsbzHi, hsbz8, hfix4⟩, hc, hsz⟩ := a1Match_fields c sz
  exact ⟨⟨(extractLsb'_of_masked hmasked (by decide)).trans hcond,
      (extractLsb'_of_masked hmasked (by decide)).trans hfix23,
      (extractLsb'_of_masked hmasked (by decide)).trans hfix20,
      (extractLsb'_of_masked hmasked (by decide)).trans hsbzHi,
      (extractLsb'_of_masked hmasked (by decide)).trans hsbz8,
      (extractLsb'_of_masked hmasked (by decide)).trans hfix4⟩,
    (extractLsb'_of_masked hmasked (by decide)).trans hc, (extractLsb'_of_masked hmasked (by decide)).trans hsz⟩

theorem encodeA1_always_masked (c : BitVec 1) (sz : BitVec 2) (rn rd rm : BitVec 4) :
    encodeA1 14#4 sz rn rd 0#2 c 0#1 rm &&& 0xFFF00FF0#32 = a1Match c sz := by
  apply BitVec.eq_of_getLsbD_eq
  intro i hi
  simp only [encodeA1, a1Match, BitVec.getLsbD_and, BitVec.getLsbD_or, BitVec.getLsbD_append, BitVec.getLsbD_shiftLeft,
    BitVec.getLsbD_setWidth]
  interval_cases i <;> simp

namespace Machine

open Statements

/-- What picks out one A1 row of the model: its words are A1 words, with the row's C and `sz`, and `exec` runs `crcA1` on the
row's own word. -/
structure IsA1Row (c : BitVec 1) (sz : BitVec 2) (crc32c : Bool)
    (row : BitVec 4 → BitVec 4 → BitVec 4 → BitVec 2 → BitVec 1 → BitVec 4 → Instr) : Prop where
  view_eq : ∀ cond rn rd sbzHi sbz8 rm, (row cond rn rd sbzHi sbz8 rm).view = .a32
  wellFormed_eq : ∀ cond rn rd sbzHi sbz8 rm, (row cond rn rd sbzHi sbz8 rm).wellFormed = condEncodable cond
  encode_eq : ∀ cond rn rd sbzHi sbz8 rm, encode (row cond rn rd sbzHi sbz8 rm) = encodeA1 cond sz rn rd sbzHi c sbz8 rm
  exec_eq : ∀ cond rn rd sbzHi sbz8 rm s, exec (row cond rn rd sbzHi sbz8 rm) s =
    crcA1 (encode (row cond rn rd sbzHi sbz8 rm)) crc32c cond sz rn rd sbzHi sbz8 rm s

section Row

variable {c : BitVec 1} {sz : BitVec 2} {crc32c : Bool}
variable {row : BitVec 4 → BitVec 4 → BitVec 4 → BitVec 2 → BitVec 1 → BitVec 4 → Instr}

/-- R55: the defined words of a row are those of its mask and match. -/
theorem IsA1Row.masked_iff_decode (hrow : IsA1Row c sz crc32c row) (w : Word) :
    w &&& 0xFFF00FF0#32 = a1Match c sz ↔ ∃ rn rd rm, decodeWord .a32 w = .ok (row 14#4 rn rd 0#2 0#1 rm) := by
  constructor
  · intro hmasked
    obtain ⟨⟨hcond, hfix23, hfix20, hsbzHi, hsbz8, hfix4⟩, hc, hsz⟩ := a1AlwaysFormat_of_masked hmasked
    have hencode := encodeA1_of_fields hsz hc hfix23 hfix20 hfix4
    rw [hcond, hsbzHi, hsbz8, ← hrow.encode_eq] at hencode
    refine ⟨w.extractLsb' 16 4, w.extractLsb' 12 4, w.extractLsb' 0 4, ?_⟩
    rw [← decodeOfEncode _ (hrow.wellFormed_eq ..), hrow.view_eq, hencode]
  · rintro ⟨rn, rd, rm, hdecode⟩
    obtain ⟨-, -, hencode⟩ := encode_of_decodeWord hdecode
    rw [← hencode, hrow.encode_eq]
    exact encodeA1_always_masked ..

/-- With no choice left free the row answers what the A1 column says. -/
theorem IsA1Row.exec_eq_a1Common (hrow : IsA1Row c sz crc32c row) (hsz : sz ≠ 0b11#2) {cond : BitVec 4}
    (hcond : cond ≠ 15#4) (rn rd : BitVec 4) (sbzHi : BitVec 2) (sbz8 : BitVec 1) (rm : BitVec 4) {s : State}
    (hcu : s.cfg.cuCond ≠ .varying) :
    exec (row cond rn rd sbzHi sbz8 rm) s = a1Common s.condChoice (encode (row cond rn rd sbzHi sbz8 rm)) (sizeOfSz sz)
      crc32c cond rn rd sbzHi sbz8 rm s := by
  rw [hrow.exec_eq, crcA1_eq_a1Common _ crc32c hcond rn rd rm sbzHi sbz8 hsz s, State.drewCond_of_not_varying hcu,
    mapNext_passDraw_false]

/-- An A1 row with `sz` other than 11 is what the spec's table of A1 rows says (R86 to R88, and R92 to R94 for C = 1). -/
theorem IsA1Row.a1Row (hrow : IsA1Row c sz crc32c row) (hsz : sz ≠ 0b11#2) :
    A1Row (a1Match c sz) (sizeOfSz sz) crc32c row := by
  refine ⟨hrow.masked_iff_decode, fun rn rd rm s hext hrd hrn hrm => ?_,
    fun cond rn rd sbzHi sbz8 rm s hcond => ⟨fun hcu => ?_, fun b hcu => ?_⟩⟩
  · rw [hrow.exec_eq, crcA1_of_checks_pass _ crc32c hsz hext hrd hrn hrm]
  · rw [hrow.exec_eq_a1Common hsz hcond _ _ _ _ _ (by simp [hcu]), State.condChoice_of_default hcu]
  · rw [hrow.exec_eq_a1Common hsz hcond _ _ _ _ _ (by simp [hcu]), State.condChoice_of_always hcu]

end Row

/-- R86. -/
theorem isA1Row_crc32bA1 : IsA1Row 0#1 0b00#2 false .crc32bA1 where
  view_eq _ _ _ _ _ _ := rfl
  wellFormed_eq _ _ _ _ _ _ := rfl
  encode_eq _ _ _ _ _ _ := rfl
  exec_eq _ _ _ _ _ _ _ := rfl

/-- R87. -/
theorem isA1Row_crc32hA1 : IsA1Row 0#1 0b01#2 false .crc32hA1 where
  view_eq _ _ _ _ _ _ := rfl
  wellFormed_eq _ _ _ _ _ _ := rfl
  encode_eq _ _ _ _ _ _ := rfl
  exec_eq _ _ _ _ _ _ _ := rfl

/-- R88. -/
theorem isA1Row_crc32wA1 : IsA1Row 0#1 0b10#2 false (fun cond => .crc32wA1 cond false) where
  view_eq _ _ _ _ _ _ := rfl
  wellFormed_eq _ _ _ _ _ _ := rfl
  encode_eq _ _ _ _ _ _ := rfl
  exec_eq _ _ _ _ _ _ _ := rfl

/-- R92. -/
theorem isA1Row_crc32cbA1 : IsA1Row 1#1 0b00#2 true .crc32cbA1 where
  view_eq _ _ _ _ _ _ := rfl
  wellFormed_eq _ _ _ _ _ _ := rfl
  encode_eq _ _ _ _ _ _ := rfl
  exec_eq _ _ _ _ _ _ _ := rfl

/-- R93. -/
theorem isA1Row_crc32chA1 : IsA1Row 1#1 0b01#2 true .crc32chA1 where
  view_eq _ _ _ _ _ _ := rfl
  wellFormed_eq _ _ _ _ _ _ := rfl
  encode_eq _ _ _ _ _ _ := rfl
  exec_eq _ _ _ _ _ _ _ := rfl

/-- R94. -/
theorem isA1Row_crc32cwA1 : IsA1Row 1#1 0b10#2 true (fun cond => .crc32cwA1 cond false) where
  view_eq _ _ _ _ _ _ := rfl
  wellFormed_eq _ _ _ _ _ _ := rfl
  encode_eq _ _ _ _ _ _ := rfl
  exec_eq _ _ _ _ _ _ _ := rfl

/-- Settles O10: the three rows with C = 0 and `sz` = 00, 01 and 10, each by the one account of an A1 row. -/
theorem crc32A1Rows : Obligations.Crc32A1Rows :=
  ⟨isA1Row_crc32bA1.a1Row (by decide), isA1Row_crc32hA1.a1Row (by decide), isA1Row_crc32wA1.a1Row (by decide)⟩

/-- Settles O11: the same account for C = 1, and the switch by bit 9. -/
theorem crc32cA1Rows : Obligations.Crc32cA1Rows :=
  ⟨isA1Row_crc32cbA1.a1Row (by decide), isA1Row_crc32chA1.a1Row (by decide), isA1Row_crc32cwA1.a1Row (by decide),
    decode_a32_iff⟩

/-! ### T1 with C = 1 -/

/-- R95. -/
theorem isT1Row_crc32cbT1 : IsT1Row 1#1 0b00#2 true .crc32cbT1 where
  decode_eq w hformat hc hsz := by rw [decodeWord, decodeT32, hc, hsz]; exact if_pos hformat
  encode_eq _ _ _ := rfl
  exec_eq _ _ _ _ := rfl

/-- R96. -/
theorem isT1Row_crc32chT1 : IsT1Row 1#1 0b01#2 true .crc32chT1 where
  decode_eq w hformat hc hsz := by rw [decodeWord, decodeT32, hc, hsz]; exact if_pos hformat
  encode_eq _ _ _ := rfl
  exec_eq _ _ _ _ := rfl

/-- R97. -/
theorem isT1Row_crc32cwT1 : IsT1Row 1#1 0b10#2 true (fun rn rd rm => .crc32cwT1 rn rd false rm) where
  decode_eq w hformat hc hsz := by rw [decodeWord, decodeT32, hc, hsz]; exact if_pos hformat
  encode_eq _ _ _ := rfl
  exec_eq _ _ _ _ := rfl

/-- Settles O13: the account of a T1 row for C = 1, and the switch by bit 4 of `hw1`. -/
theorem crc32cT1Rows : Obligations.Crc32cT1Rows :=
  ⟨isT1Row_crc32cbT1.t1Row (by decide), isT1Row_crc32chT1.t1Row (by decide), isT1Row_crc32cwT1.t1Row (by decide),
    decode_t32_iff⟩

/-! ### Choices that vary (D8, log 5) -/

theorem State.condChoice_of_varying {s : State} (h : s.cfg.cuCond = .varying) :
    s.condChoice = some (Config.freeCond s.draws) := by
  simp [State.condChoice, h]

theorem State.size64Choice_of_varying {s : State} (h : s.cfg.cuSize64 = .varying) :
    s.size64Choice = some (Config.freeSize64 s.draws) := by
  simp [State.size64Choice, h]

/-- A varying condition check draws for every condition but 1110. -/
theorem State.drewCond_of_varying {s : State} (h : s.cfg.cuCond = .varying) (cond : BitVec 4) {sz : BitVec 2}
    (hsz : sz ≠ 0b11#2) : s.drewCond cond sz = (cond != 14#4) := by
  simp [State.drewCond, State.checkSize_of_ne s hsz, h]

/-- A varying size check draws for `sz` = 11. -/
theorem State.drewSize_of_varying {s : State} (h : s.cfg.cuSize64 = .varying) : s.drewSize 0b11#2 = true := by
  simp [State.drewSize, sizeOfSz, h]

/-- A row of another size under a varying condition choice. -/
theorem IsA1Row.condVaries {c : BitVec 1} {sz : BitVec 2} {crc32c : Bool}
    {row : BitVec 4 → BitVec 4 → BitVec 4 → BitVec 2 → BitVec 1 → BitVec 4 → Instr} (hrow : IsA1Row c sz crc32c row)
    (hsz : sz ≠ 0b11#2) : CondVaries (sizeOfSz sz) crc32c row := by
  intro cond rn rd sbzHi sbz8 rm s hcu hcond
  have hpass : (fun t : State => t.passDraw (cond != 14#4)) = if cond = 14#4 then id else drawn := by
    by_cases halways : cond = 14#4
    · rw [if_pos halways, halways]; rfl
    · rw [if_neg halways, bne_iff_ne.mpr halways]; rfl
  rw [hrow.exec_eq, crcA1_eq_a1Common _ crc32c hcond rn rd rm sbzHi sbz8 hsz s, State.drewCond_of_varying hcu cond hsz,
    State.condChoice_of_varying hcu, hpass]

/-- A completing instruction that took a free choice leaves the counter one further on, and differs in nothing else from one
that took none. -/
theorem State.finishCrc_drew (s : State) (word : Word) (crc32c drew : Bool) (c : Check CrcOperands) :
    s.finishCrc word crc32c true c =
      mapNext (fun t => { t with draws := s.draws + 1 }) (s.finishCrc word crc32c drew c) := by
  cases c with
  | stop cause => cases cause <;> rfl
  | nop => rfl
  | pass op => rfl

/-- An instruction whose size check meets `sz` = 11 under a varying choice, with the checks `late` still to come. -/
theorem size64Varies_of_finishCrc {i : Instr} {run : Result} {s : State} {word : Word} {crc32c drew : Bool}
    {late : Nat → Check CrcOperands}
    (hexec : s.cfg.cuSize64 = .varying →
      exec i s = s.finishCrc (encode i) crc32c true ((s.checkSize 0b11#2).andThen late))
    (hrun : run = s.finishCrc word crc32c drew (late 32)) : Size64Varies i run s := by
  intro hcu
  have hchoice := State.size64Choice_of_varying hcu
  rw [hexec hcu]
  cases hb : Config.freeSize64 s.draws with
  | undefined => rw [State.checkSize_of_undefined (hchoice.trans (congrArg some hb))]; rfl
  | nop => rw [State.checkSize_of_nop (hchoice.trans (congrArg some hb))]; rfl
  | size32 =>
    rw [State.checkSize_of_size32 (hchoice.trans (congrArg some hb)), size64Outcome, hrun, State.recording_finishCrc]
    exact State.finishCrc_drew s (encode i) crc32c drew (late 32)

theorem State.checksA1_of_early_pass {s : State} {cond rd rn rm : BitVec 4} (hext : s.cfg.haveCrc = true)
    (hrd : rd ≠ 15#4) (hrn : rn ≠ 15#4) (hrm : rm ≠ 15#4) :
    ∃ named : Nat → CrcOperands, ∀ sz, s.checksA1 cond sz rn rd 0#2 0#1 rm =
      (s.checkSize sz).andThen fun size => (s.checkCond cond).andThen fun _ => .pass (named size) := by
  obtain ⟨hd, hn, hm, hregs⟩ := checkRegs_of_ne rd rn rm hrd hrn hrm
  refine ⟨namedOperands hd hn hm, fun sz => ?_⟩
  rw [State.checksA1, State.checkCrcExt_eq, if_pos hext, hregs]
  rfl

theorem State.checksT1_of_early_pass {s : State} {rd rn rm : BitVec 4} (hit : s.a32.inItBlock = false)
    (hext : s.cfg.haveCrc = true) (hrd : rd ≠ 15#4) (hrn : rn ≠ 15#4) (hrm : rm ≠ 15#4) :
    ∃ named : Nat → CrcOperands, ∀ sz, s.checksT1 rn rd sz rm = (s.checkSize sz).andThen fun size => .pass (named size) := by
  obtain ⟨hd, hn, hm, hregs⟩ := checkRegs_of_ne rd rn rm hrd hrn hrm
  refine ⟨namedOperands hd hn hm, fun sz => ?_⟩
  rw [State.checksT1, State.checkItBlock_eq, if_neg (by simp [hit]), State.checkCrcExt_eq, if_pos hext, hregs]
  rfl

/-- In A1 the remaining check is the condition's, as in the row of size 32. -/
theorem size64Varies_crcA1 {i : Instr} {s : State} {word : Word} {crc32c : Bool} {cond rn rd rm : BitVec 4}
    (hext : s.cfg.haveCrc = true) (hrd : rd ≠ 15#4) (hrn : rn ≠ 15#4) (hrm : rm ≠ 15#4)
    (hexec : exec i s = crcA1 (encode i) crc32c cond 0b11#2 rn rd 0#2 0#1 rm s) :
    Size64Varies i (crcA1 word crc32c cond 0b10#2 rn rd 0#2 0#1 rm s) s := by
  obtain ⟨named, hchecks⟩ := State.checksA1_of_early_pass (cond := cond) hext hrd hrn hrm
  refine size64Varies_of_finishCrc (word := word) (crc32c := crc32c)
    (drew := s.drewSize 0b10#2 || s.drewCond cond 0b10#2)
    (late := fun size => (s.checkCond cond).andThen fun _ => .pass (named size)) (fun hcu => ?_) ?_
  · rw [hexec, crcA1, hchecks, State.drewSize_of_varying hcu, Bool.true_or]
  · rw [crcA1, hchecks]
    rfl

/-- In T1 no check remains. -/
theorem size64Varies_crcT1 {i : Instr} {s : State} {crc32c : Bool} {rn rd rm : BitVec 4}
    (hit : s.a32.inItBlock = false) (hext : s.cfg.haveCrc = true) (hrd : rd ≠ 15#4) (hrn : rn ≠ 15#4) (hrm : rm ≠ 15#4)
    (hexec : exec i s = crcT1 (encode i) crc32c rn rd 0b11#2 rm s) :
    Size64Varies i (.next (crcDone 32 crc32c rn rd rm s)) s := by
  obtain ⟨named, hchecks⟩ := State.checksT1_of_early_pass hit hext hrd hrn hrm
  refine size64Varies_of_finishCrc (word := encode i) (crc32c := crc32c) (drew := s.drewSize 0b10#2)
    (late := fun size => .pass (named size)) (fun hcu => ?_) ?_
  · rw [hexec, crcT1, hchecks, State.drewSize_of_varying hcu]
  · rw [show 32 = sizeOfSz 0b10#2 from rfl, ← crcT1_of_checks_pass (encode i) crc32c (by decide) hit hext hrd hrn hrm,
      crcT1, hchecks]
    rfl

/-- Settles O17: the free value at the counter is the behaviour in force, and the one draw is the size check's or the
condition check's. -/
theorem varyingChoices : Obligations.VaryingChoices :=
  ⟨isA1Row_crc32bA1.condVaries (by decide), isA1Row_crc32hA1.condVaries (by decide),
    isA1Row_crc32wA1.condVaries (by decide), isA1Row_crc32cbA1.condVaries (by decide),
    isA1Row_crc32chA1.condVaries (by decide), isA1Row_crc32cwA1.condVaries (by decide),
    fun _ _ _ _ _ hext hrd hrn hrm _ =>
      ⟨size64Varies_crcA1 hext hrd hrn hrm rfl, size64Varies_crcA1 hext hrd hrn hrm rfl,
        fun hit => ⟨size64Varies_crcT1 hit hext hrd hrn hrm rfl, size64Varies_crcT1 hit hext hrd hrn hrm rfl⟩⟩⟩

end Machine

end Sys2Proof
end

section
/-! SUPPORT. What an instruction can answer, said once for the A64 rows and once for the AArch32 rows, and from it every cause
of a fault (spec/60_exceptions.md R111, R113, R116). -/

namespace Sys2Proof.Machine

open Statements

/-! ### The A64 rows -/

/-- `s` after a completed A64 instruction: the `x` registers and the stack pointer it leaves, and `pc + 4`. -/
def movedA64 (x : Vector DWord 31) (sp : DWord) (s : State) : State :=
  { s with a64 := { s.a64 with x := x, sp := sp, pc := s.a64.pc + 4#64 } }

/-- R53: `imm3` above 4 is 5, 6 or 7. -/
theorem imm3_cases (imm3 : BitVec 3) : (4#3 < imm3 ∧ (imm3 = 5#3 ∨ imm3 = 6#3 ∨ imm3 = 7#3)) ∨
    (imm3 ≤ 4#3 ∧ ¬(imm3 = 5#3 ∨ imm3 = 6#3 ∨ imm3 = 7#3)) := by
  revert imm3
  decide

/-- What the instruction's own cause (rows 1 and 6 of R111) decides. -/
def A64Decides (i : Instr) (s : State) : Prop :=
  (a64Undefined i s ∧ exec i s = .fault (.undefined (encode i))) ∨
    (¬a64Undefined i s ∧ ∃ x sp, exec i s = .next (movedA64 x sp s))

theorem a64Decides_addExtended {n : Nat} {i : Instr} {rm : BitVec 5} {option : ExtendType} {imm3 : BitVec 3}
    {rn rd : BitVec 5} {s : State} (hexec : exec i s = addExtended n (encode i) rm option imm3 rn rd s)
    (hcause : a64Undefined i s = (imm3 = 5#3 ∨ imm3 = 6#3 ∨ imm3 = 7#3)) : A64Decides i s := by
  rw [A64Decides, hcause, hexec]
  rcases imm3_cases imm3 with ⟨himm3, hundef⟩ | ⟨himm3, hdef⟩
  · exact .inl ⟨hundef, addExtended_of_four_lt _ _ _ _ _ _ _ _ himm3⟩
  · exact .inr ⟨hdef, _, _, addExtended_of_le_four _ _ _ _ _ _ _ _ himm3⟩

theorem a64Decides_crcA64 {sz : BitVec 2} {sf : Bool} {i : Instr} {rm rn rd : BitVec 5} {s : State}
    (hexec : exec i s = crcA64 (encode i) sz sf rm rn rd s)
    (hcause : a64Undefined i s ↔ ¬(s.cfg.haveCrc = true ∧ sf = sfOfSz sz)) : A64Decides i s := by
  rw [A64Decides, hcause, hexec]
  by_cases hmatch : s.cfg.haveCrc = true ∧ sf = sfOfSz sz
  · exact .inr ⟨not_not_intro hmatch, _, _, crcA64_of_match _ rm rn rd hmatch.1 hmatch.2⟩
  · exact .inl ⟨hmatch, crcA64_of_mismatch _ rm rn rd hmatch⟩

/-- An A64 instruction is UNDEFINED for its own cause, and completes otherwise. -/
theorem a64Decides {i : Instr} (hview : i.view = .a64) (s : State) : A64Decides i s := by
  cases i with
  | addExt32 | addExt64 => exact a64Decides_addExtended rfl rfl
  | crc32cbA64 | crc32chA64 | crc32cwA64 | crc32cxA64 =>
    exact a64Decides_crcA64 rfl (by simp [a64Undefined, sfOfSz, or_iff_not_imp_left])
  | _ => cases hview

/-! ### The AArch32 rows -/

theorem crcFields_eq_none_iff (i : Instr) : crcFields i = none ↔ i.view = .a64 := by
  cases i <;> simp [crcFields, Instr.view]

/-- R54: only an A1 word has a condition, and it is not 1111. -/
theorem cond_ne_of_crcFields {i : Instr} {f : CrcFields} (hf : crcFields i = some f) (hwf : i.wellFormed = true) :
    f.cond ≠ 15#4 := by
  cases i with
  | addExt32 | addExt64 | crc32cbA64 | crc32chA64 | crc32cwA64 | crc32cxA64 => cases hf
  | crc32bT1 | crc32hT1 | crc32wT1 | crc32cbT1 | crc32chT1 | crc32cwT1 => cases hf; simp
  | crc32bA1 | crc32hA1 | crc32wA1 | crc32cbA1 | crc32chA1 | crc32cwA1 =>
    cases hf
    exact Instr.cond_ne_of_condEncodable hwf

/-- The IT-block check, which T1 alone makes. -/
def itCheck (a1 : Bool) (s : State) : Check Unit := if a1 then .pass () else s.checkItBlock

/-- The check of the "(0)" bits, which T1 has none of. -/
def sbzCheck (sbz : Bool) : Check Unit := if sbz then .stop (.unpredictable .sbz) else .pass ()

theorem checkSbz_eq_sbzCheck (sbzHi : BitVec 2) (sbz8 : BitVec 1) :
    checkSbz sbzHi sbz8 = sbzCheck (sbzHi != 0#2 || sbz8 != 0#1) := by
  by_cases hhi : sbzHi = 0#2 <;> by_cases hlo : sbz8 = 0#1 <;> simp [checkSbz, sbzCheck, hhi, hlo]

/-- The checks of both encodings as one list, in the order of R116. -/
def crcChecks (f : CrcFields) (sz : BitVec 2) (s : State) : Check CrcOperands :=
  (itCheck f.a1 s).andThen fun _ =>
  s.checkCrcExt.andThen fun _ =>
  (sbzCheck f.sbz).andThen fun _ =>
  (checkRegs f.rd f.rn f.rm).andThen fun r =>
  (s.checkSize sz).andThen fun size =>
  (s.checkCond f.cond).andThen fun _ =>
  .pass { d := r.1, n := r.2.1, m := r.2.2, size := size }

/-- The instruction of these fields carries out what its list of checks decides, in every state. -/
def CarriesOutChecks (i : Instr) (f : CrcFields) : Prop :=
  ∃ sz crc32c, (sz = 0b11#2 ↔ f.size64 = true) ∧ ∀ s, exec i s =
    s.finishCrc (encode i) crc32c (s.drewSize sz || s.drewCond f.cond sz) (crcChecks f sz s)

theorem carriesOutChecks_crcA1 {i : Instr} {crc32c : Bool} {cond rn rd rm : BitVec 4} {sz sbzHi : BitVec 2}
    {sbz8 : BitVec 1} {size64 : Bool} (hexec : ∀ s, exec i s = crcA1 (encode i) crc32c cond sz rn rd sbzHi sbz8 rm s)
    (hsz : sz = 0b11#2 ↔ size64 = true) :
    CarriesOutChecks i ⟨true, cond, size64, rn, rd, sbzHi != 0#2 || sbz8 != 0#1, rm⟩ := by
  refine ⟨sz, crc32c, hsz, fun s => (hexec s).trans ?_⟩
  rw [crcA1, State.checksA1, checkSbz_eq_sbzCheck]
  rfl

/-- T1 has no condition, which is as good as condition 1110. -/
theorem carriesOutChecks_crcT1 {i : Instr} {crc32c : Bool} {rn rd rm : BitVec 4} {sz : BitVec 2} {size64 : Bool}
    (hexec : ∀ s, exec i s = crcT1 (encode i) crc32c rn rd sz rm s) (hsz : sz = 0b11#2 ↔ size64 = true) :
    CarriesOutChecks i ⟨false, 14#4, size64, rn, rd, false, rm⟩ := by
  refine ⟨sz, crc32c, hsz, fun s => (hexec s).trans ?_⟩
  rw [crcT1, State.drewCond_fourteen, Bool.or_false]
  rfl

theorem carriesOutChecks {i : Instr} {f : CrcFields} (hf : crcFields i = some f) : CarriesOutChecks i f := by
  have hsz : ∀ size64, szOfWordRow size64 = 0b11#2 ↔ size64 = true := by decide
  cases i with
  | addExt32 | addExt64 | crc32cbA64 | crc32chA64 | crc32cwA64 | crc32cxA64 => cases hf
  | crc32bA1 | crc32hA1 | crc32cbA1 | crc32chA1 => cases hf; exact carriesOutChecks_crcA1 (fun _ => rfl) (by decide)
  | crc32wA1 | crc32cwA1 => cases hf; exact carriesOutChecks_crcA1 (fun _ => rfl) (hsz _)
  | crc32bT1 | crc32hT1 | crc32cbT1 | crc32chT1 => cases hf; exact carriesOutChecks_crcT1 (fun _ => rfl) (by decide)
  | crc32wT1 | crc32cwT1 => cases hf; exact carriesOutChecks_crcT1 (fun _ => rfl) (hsz _)

/-! ### Where a list of checks stops -/

/-- A list of checks stops where its first check does, or where that check passes and the rest stops. -/
theorem Check.andThen_eq_stop_iff {α β : Type} (c : Check α) (k : α → Check β) (cause : Cause) :
    c.andThen k = .stop cause ↔ c = .stop cause ∨ ∃ a, c = .pass a ∧ k a = .stop cause := by
  cases c <;> simp

theorem itCheck_eq_stop_iff (a1 : Bool) (s : State) (cause : Cause) :
    itCheck a1 s = .stop cause ↔ (a1 = false ∧ s.a32.inItBlock = true) ∧ cause = .unpredictable .inIt := by
  cases a1 <;> cases hit : s.a32.inItBlock <;> simp [itCheck, State.checkItBlock_eq, hit, eq_comm]

theorem itCheck_eq_pass_iff (a1 : Bool) (s : State) (u : Unit) :
    itCheck a1 s = .pass u ↔ (a1 = false → s.a32.inItBlock = false) := by
  cases a1 <;> cases hit : s.a32.inItBlock <;> simp [itCheck, State.checkItBlock_eq, hit]

theorem State.checkCrcExt_eq_stop_iff (s : State) (cause : Cause) :
    s.checkCrcExt = .stop cause ↔ s.cfg.haveCrc = false ∧ cause = .undefined := by
  cases hext : s.cfg.haveCrc <;> simp [State.checkCrcExt_eq, hext, eq_comm]

theorem State.checkCrcExt_eq_pass_iff (s : State) (u : Unit) : s.checkCrcExt = .pass u ↔ s.cfg.haveCrc = true := by
  cases hext : s.cfg.haveCrc <;> simp [State.checkCrcExt_eq, hext]

theorem sbzCheck_eq_stop_iff (sbz : Bool) (cause : Cause) :
    sbzCheck sbz = .stop cause ↔ sbz = true ∧ cause = .unpredictable .sbz := by
  cases sbz <;> simp [sbzCheck, eq_comm]

theorem sbzCheck_eq_pass_iff (sbz : Bool) (u : Unit) : sbzCheck sbz = .pass u ↔ sbz = false := by
  cases sbz <;> simp [sbzCheck]

theorem checkRegs_eq_stop_iff (rd rn rm : BitVec 4) (cause : Cause) :
    checkRegs rd rn rm = .stop cause ↔ (rd = 15#4 ∨ rn = 15#4 ∨ rm = 15#4) ∧ cause = .unpredictable .r15 := by
  by_cases hregs : rd = 15#4 ∨ rn = 15#4 ∨ rm = 15#4
  · simp [checkRegs_of_fifteen rd rn rm hregs, hregs, eq_comm]
  · obtain ⟨hrd, hrn, hrm⟩ := by simpa only [not_or] using hregs
    obtain ⟨_, _, _, hpass⟩ := checkRegs_of_ne rd rn rm hrd hrn hrm
    simp [hpass, hregs]

theorem checkRegs_passes_iff (rd rn rm : BitVec 4) :
    (∃ r, checkRegs rd rn rm = .pass r) ↔ rd ≠ 15#4 ∧ rn ≠ 15#4 ∧ rm ≠ 15#4 := by
  by_cases hregs : rd = 15#4 ∨ rn = 15#4 ∨ rm = 15#4
  · have hnot : ¬(rd ≠ 15#4 ∧ rn ≠ 15#4 ∧ rm ≠ 15#4) := by tauto
    simp [checkRegs_of_fifteen rd rn rm hregs, hnot]
  · obtain ⟨hrd, hrn, hrm⟩ := by simpa only [not_or] using hregs
    obtain ⟨_, _, _, hpass⟩ := checkRegs_of_ne rd rn rm hrd hrn hrm
    simp [hpass, hrd, hrn, hrm]

theorem size64InForce_eq (s : State) : size64InForce s = s.size64Choice := rfl

theorem condInForce_eq (s : State) : condInForce s = s.condChoice := rfl

theorem State.checkSize_eq_stop_iff {sz : BitVec 2} {size64 : Bool} (hsz : sz = 0b11#2 ↔ size64 = true) (s : State)
    (cause : Cause) : s.checkSize sz = .stop cause ↔ size64 = true ∧
      (size64InForce s = none ∧ cause = .unpredictable .size64 ∨
        size64InForce s = some .undefined ∧ cause = .undefined) := by
  rw [size64InForce_eq]
  cases size64 with
  | false => simp [State.checkSize_of_ne s (fun h => Bool.false_ne_true (hsz.mp h))]
  | true =>
    rw [hsz.mpr rfl]
    rcases hchoice : s.size64Choice with _ | _ | _ | _
    · simp [State.checkSize_of_no_choice hchoice, eq_comm]
    · simp [State.checkSize_of_undefined hchoice, eq_comm]
    · simp [State.checkSize_of_nop hchoice]
    · simp [State.checkSize_of_size32 hchoice]

theorem State.checkSize_passes_iff {sz : BitVec 2} {size64 : Bool} (hsz : sz = 0b11#2 ↔ size64 = true) (s : State) :
    (∃ size, s.checkSize sz = .pass size) ↔ size64 = false ∨ size64InForce s = some .size32 := by
  rw [size64InForce_eq]
  cases size64 with
  | false => simp [State.checkSize_of_ne s (fun h => Bool.false_ne_true (hsz.mp h))]
  | true =>
    rw [hsz.mpr rfl]
    rcases hchoice : s.size64Choice with _ | _ | _ | _
    · simp [State.checkSize_of_no_choice hchoice]
    · simp [State.checkSize_of_undefined hchoice]
    · simp [State.checkSize_of_nop hchoice]
    · simp [State.checkSize_of_size32 hchoice]

theorem State.checkCond_eq_stop_iff {cond : BitVec 4} (hcond : cond ≠ 15#4) (s : State) (cause : Cause) :
    s.checkCond cond = .stop cause ↔ cond ≠ 14#4 ∧
      (condInForce s = none ∧ cause = .unpredictable .cond ∨ condInForce s = some .undefined ∧ cause = .undefined) := by
  rw [condInForce_eq]
  by_cases halways : cond = 14#4
  · simp [halways]
  rcases hchoice : s.condChoice with _ | _ | _ | _ | _
  · simp [State.checkCond_of_no_choice halways hchoice, halways, eq_comm]
  · simp [State.checkCond_of_undefined halways hchoice, halways, eq_comm]
  · simp [State.checkCond_of_nop halways hchoice]
  · simp [State.checkCond_of_unconditional halways hchoice]
  · rw [State.checkCond_of_conditional halways hcond hchoice]
    split <;> simp

/-- The cause that stops the instruction of these fields, by the tables of R111 and R113. -/
def crcStops (f : CrcFields) (s : State) : Cause → Prop
  | .undefined => crcUndefined f s
  | .unpredictable info => crcUnpredictable f s info

/-- R116: the list of checks stops for the cause of the first check that fails. -/
theorem crcChecks_eq_stop_iff {f : CrcFields} {sz : BitVec 2} (hsz : sz = 0b11#2 ↔ f.size64 = true)
    (hcond : f.cond ≠ 15#4) (s : State) (cause : Cause) : crcChecks f sz s = .stop cause ↔ crcStops f s cause := by
  simp only [crcChecks, Check.andThen_eq_stop_iff, itCheck_eq_stop_iff, itCheck_eq_pass_iff, exists_const,
    State.checkCrcExt_eq_stop_iff, State.checkCrcExt_eq_pass_iff, sbzCheck_eq_stop_iff, sbzCheck_eq_pass_iff,
    checkRegs_eq_stop_iff, State.checkSize_eq_stop_iff hsz, State.checkCond_eq_stop_iff hcond, reduceCtorEq, and_false,
    or_false, exists_and_right, checkRegs_passes_iff, State.checkSize_passes_iff hsz]
  cases cause with
  | undefined =>
    simp only [crcStops, crcUndefined, earlyChecksPass, sizePasses, reduceCtorEq, and_false, and_true, false_or]
    tauto
  | unpredictable info =>
    cases info <;> simp [crcStops, crcUnpredictable, earlyChecksPass, sizePasses, and_assoc]

/-! ### The causes of a fault -/

/-- Carrying out the checks faults as UNDEFINED exactly where they stop so, and records the word. -/
theorem State.finishCrc_eq_undefined_iff (s : State) (word info : Word) (crc32c drew : Bool) (c : Check CrcOperands) :
    s.finishCrc word crc32c drew c = .fault (.undefined info) ↔ info = word ∧ c = .stop .undefined := by
  cases c with
  | stop cause => cases cause <;> simp [State.finishCrc, raise, eq_comm]
  | nop => simp [State.finishCrc]
  | pass op => simp [State.finishCrc]

theorem State.finishCrc_eq_unpredictable_iff (s : State) (word : Word) (info : UnpredictableInfo) (crc32c drew : Bool)
    (c : Check CrcOperands) :
    s.finishCrc word crc32c drew c = .fault (.unpredictable info) ↔ c = .stop (.unpredictable info) := by
  cases c with
  | stop cause => cases cause <;> simp [State.finishCrc, raise]
  | nop => simp [State.finishCrc]
  | pass op => simp [State.finishCrc]

theorem State.finishCrc_ne_refused (s : State) (word : Word) (crc32c drew : Bool) (c : Check CrcOperands) (r : Refusal) :
    s.finishCrc word crc32c drew c ≠ .refused r := by
  cases c with
  | stop cause => cases cause <;> simp [State.finishCrc, raise]
  | nop => simp [State.finishCrc]
  | pass op => simp [State.finishCrc]

/-- Settles O18: an A64 row by its own cause, an AArch32 row by where its list of checks stops. -/
theorem undefinedExactlyWhen : Obligations.UndefinedExactlyWhen := by
  intro i s info hwf
  cases hf : crcFields i with
  | none =>
    rcases a64Decides ((crcFields_eq_none_iff i).mp hf) s with ⟨hcause, hexec⟩ | ⟨hcause, x, sp, hexec⟩
    · simp [hexec, hcause, eq_comm]
    · simp [hexec, hcause]
  | some f =>
    obtain ⟨sz, crc32c, hsz, hexec⟩ := carriesOutChecks hf
    rw [hexec, State.finishCrc_eq_undefined_iff, crcChecks_eq_stop_iff hsz (cond_ne_of_crcFields hf hwf)]
    rfl

/-- Settles O19: an A64 row never raises this fault, and an AArch32 row does where its list of checks stops so. -/
theorem unpredictableExactlyWhen : Obligations.UnpredictableExactlyWhen := by
  intro i s info hwf
  cases hf : crcFields i with
  | none =>
    rcases a64Decides ((crcFields_eq_none_iff i).mp hf) s with ⟨-, hexec⟩ | ⟨-, x, sp, hexec⟩
    · simp [hexec]
    · simp [hexec]
  | some f =>
    obtain ⟨sz, crc32c, hsz, hexec⟩ := carriesOutChecks hf
    rw [hexec, State.finishCrc_eq_unpredictable_iff, crcChecks_eq_stop_iff hsz (cond_ne_of_crcFields hf hwf)]
    rfl

/-- Settles O20. -/
theorem meaningsNeverRefuse : Obligations.MeaningsNeverRefuse := by
  intro i s r
  cases hf : crcFields i with
  | none =>
    rcases a64Decides ((crcFields_eq_none_iff i).mp hf) s with ⟨-, hexec⟩ | ⟨-, x, sp, hexec⟩
    · simp [hexec]
    · simp [hexec]
  | some f =>
    obtain ⟨sz, crc32c, -, hexec⟩ := carriesOutChecks hf
    rw [hexec]
    exact State.finishCrc_ne_refused _ _ _ _ _ _

/-- Settles O42: an UNDEFINED instruction records its encoding, which is the word it was decoded from. -/
theorem faultRecordsTheWord : Obligations.FaultRecordsTheWord := by
  intro s info hmark hstep
  obtain ⟨w, i, hfetch, hdecode, hexec⟩ := step_fault s _ hmark hstep
  obtain ⟨hword, -⟩ := decode_ok s.cfg s.view w i hdecode
  obtain ⟨-, hwf, hencode⟩ := encode_of_decodeWord hword
  obtain ⟨hinfo, -⟩ := (undefinedExactlyWhen i s info hwf).mp hexec
  rw [hinfo, hencode, hfetch]

end Sys2Proof.Machine
end

section
/-! SUPPORT. What a completed instruction and a completed step change and leave alone (spec/10_state.md R25, R30, R39;
spec/70_reset_and_hazards.md R133). -/

namespace Sys2Proof.Machine

open Statements

/-! ### One account of a completed instruction, by view -/

/-- `s` after a completed AArch32 instruction: the `r` registers and the draw counter it leaves, and `pc + 4`. -/
def movedA32 (r : Vector Word 15) (draws : Nat) (s : State) : State :=
  { s with draws := draws, a32 := { s.a32 with r := r, pc := s.a32.pc + 4#32 } }

theorem exec_a64_next {i : Instr} (hview : i.view = .a64) {s t : State} (hexec : exec i s = .next t) :
    ∃ x sp, t = movedA64 x sp s := by
  rcases a64Decides hview s with ⟨-, h⟩ | ⟨-, x, sp, h⟩
  · rw [h] at hexec
    cases hexec
  · exact ⟨x, sp, Host.Outcome.next.inj (hexec.symm.trans h)⟩

theorem Check.andThen_eq_pass_iff {α β : Type} (c : Check α) (k : α → Check β) (b : β) :
    c.andThen k = .pass b ↔ ∃ a, c = .pass a ∧ k a = .pass b := by
  cases c <;> simp

/-- A list of checks that passes names the destination the word has. -/
theorem crcChecks_pass {f : CrcFields} {sz : BitVec 2} {s : State} {op : CrcOperands} (h : crcChecks f sz s = .pass op) :
    op.d.val = f.rd.toNat := by
  simp only [crcChecks, Check.andThen_eq_pass_iff] at h
  obtain ⟨-, -, -, -, -, -, r, hregs, size, -, -, -, hop⟩ := h
  obtain ⟨hd, -, -⟩ := checkRegs_pass _ _ _ r hregs
  cases hop
  exact hd

/-- R84, R124: an AArch32 instruction that completes leaves every register but its destination. -/
theorem exec_aarch32_next {i : Instr} {f : CrcFields} (hf : crcFields i = some f) {s t : State}
    (hexec : exec i s = .next t) :
    ∃ r draws, t = movedA32 r draws s ∧ ∀ k (hk : k < 15), k ≠ f.rd.toNat → r[k] = s.a32.r[k] := by
  obtain ⟨sz, crc32c, -, h⟩ := carriesOutChecks hf
  rcases State.finishCrc_next s t _ crc32c _ _ ((h s).symm.trans hexec) with ⟨-, rfl⟩ | ⟨op, hpass, rfl⟩
  · exact ⟨_, _, rfl, fun _ _ _ => rfl⟩
  · refine ⟨_, _, rfl, fun k hk hne => ?_⟩
    exact Vector.getElem_set_ne op.d.isLt hk (by rw [crcChecks_pass hpass]; exact hne.symm)

/-! ### The frames of the rows -/

/-- A register file read by number, with what a number that is out of range reads as. -/
theorem getD_toList_of_lt {α : Type} {n k : Nat} (v : Vector α n) (hk : k < n) (d : α) : v.toList.getD k d = v[k] := by
  simp [hk]

theorem getD_toList_of_ge {α : Type} {n k : Nat} (v : Vector α n) (hk : n ≤ k) (d : α) : v.toList.getD k d = d := by
  simp [hk]

/-- A write of one register leaves the others. -/
theorem getD_toList_setIfInBounds_ne {α : Type} {n k j : Nat} (v : Vector α n) (a d : α) (hne : k ≠ j) :
    (v.setIfInBounds k a).toList.getD j d = v.toList.getD j d := by
  by_cases hj : j < n
  · rw [getD_toList_of_lt _ hj, getD_toList_of_lt _ hj, Vector.getElem_setIfInBounds_ne hj hne]
  · rw [getD_toList_of_ge _ (by omega), getD_toList_of_ge _ (by omega)]

theorem getD_toList_setIfInBounds_same {α : Type} {n k : Nat} (v : Vector α n) (hk : k < n) (a d : α) :
    (v.setIfInBounds k a).toList.getD k d = a := by
  rw [getD_toList_of_lt _ hk, Vector.getElem_setIfInBounds_self]

theorem xReg_setIfInBounds_ne {s : State} {rd n : BitVec 5} (hne : n ≠ rd) (v sp : DWord) :
    xReg (movedA64 (s.a64.x.setIfInBounds rd.toNat v) sp s) n = xReg s n :=
  getD_toList_setIfInBounds_ne s.a64.x v _ fun h => hne (BitVec.eq_of_toNat_eq h.symm)

/-- An A64 instruction that writes at most `x[rd]`, and the stack pointer only where it may, has the frame. -/
theorem a64Frame_of_movedA64 {i : Instr} {rd : BitVec 5} {spToo : Bool}
    (h : ∀ s t, exec i s = .next t → ∃ v sp, t = movedA64 (s.a64.x.setIfInBounds rd.toNat v) sp s ∧
      (spToo = false ∨ rd ≠ 31#5 → sp = s.a64.sp)) : A64Frame i rd spToo := by
  intro s t hexec
  obtain ⟨v, sp, rfl, hsp⟩ := h s t hexec
  exact ⟨fun n hne => xReg_setIfInBounds_ne hne v sp, hsp, ⟨rfl, rfl⟩, rfl, rfl, rfl, rfl, rfl, rfl, rfl, fun _ => rfl⟩

theorem addDone_eq_movedA64 (rd : BitVec 5) (v : DWord) (s : State) :
    addDone rd v s = movedA64 (s.a64.x.setIfInBounds rd.toNat v) (if rd = 31#5 then v else s.a64.sp) s := by
  by_cases hrd : rd = 31#5
  · have hnone : s.a64.x.setIfInBounds (31#5).toNat v = s.a64.x :=
      Vector.ext fun k hk => Vector.getElem_setIfInBounds_ne hk (Nat.ne_of_gt hk)
    rw [hrd, hnone]
    rfl
  · simp only [addDone, if_neg hrd]
    rfl

theorem a64Frame_addExtended {n : Nat} {i : Instr} {rm : BitVec 5} {option : ExtendType} {imm3 : BitVec 3}
    {rn rd : BitVec 5} (h : ∀ s, exec i s = addExtended n (encode i) rm option imm3 rn rd s) : A64Frame i rd true := by
  refine a64Frame_of_movedA64 fun s t hexec => ?_
  obtain ⟨-, rfl⟩ := addExtended_next n _ rm option imm3 rn rd s t ((h s).symm.trans hexec)
  rw [addSubExtended_advance64, addDone_eq_movedA64]
  exact ⟨_, _, rfl, fun hrd => if_neg (by simpa using hrd)⟩

/-- Settles O21. -/
theorem addFrame : Obligations.AddFrame :=
  fun rm option imm3 rn rd =>
    ⟨a64Frame_addExtended (exec_addExt32 rm option imm3 rn rd),
      a64Frame_addExtended (exec_addExt64 rm option imm3 rn rd)⟩

theorem a64Frame_crcA64 {sz : BitVec 2} {sf : Bool} {i : Instr} {rm rn rd : BitVec 5}
    (h : ∀ s, exec i s = crcA64 (encode i) sz sf rm rn rd s) : A64Frame i rd false := by
  refine a64Frame_of_movedA64 fun s t hexec => ?_
  rw [h] at hexec
  by_cases hmatch : s.cfg.haveCrc = true ∧ sf = sfOfSz sz
  · rw [crcA64_of_match _ rm rn rd hmatch.1 hmatch.2] at hexec
    cases hexec
    exact ⟨_, _, rfl, fun _ => rfl⟩
  · rw [crcA64_of_mismatch _ rm rn rd hmatch] at hexec
    cases hexec

/-- Settles O22. -/
theorem crcA64Frame : Obligations.CrcA64Frame :=
  fun sf rm rn rd =>
    ⟨a64Frame_crcA64 (isA64CrcRow_crc32cbA64.exec_eq sf rm rn rd),
      a64Frame_crcA64 (isA64CrcRow_crc32chA64.exec_eq sf rm rn rd),
      a64Frame_crcA64 (isA64CrcRow_crc32cwA64.exec_eq sf rm rn rd),
      a64Frame_crcA64 (isA64CrcRow_crc32cxA64.exec_eq sf rm rn rd)⟩

theorem crcA32Frame {i : Instr} {f : CrcFields} {rd : BitVec 4} (hf : crcFields i = some f) (hrd : f.rd = rd) :
    CrcA32Frame i rd := by
  subst hrd
  intro s t hexec
  obtain ⟨r, draws, rfl, hothers⟩ := exec_aarch32_next hf hexec
  refine ⟨fun n hne => ?_, ⟨rfl, rfl, rfl⟩, rfl, rfl, rfl, rfl, rfl, rfl, fun _ => rfl⟩
  by_cases hn : n.toNat < 15
  · have hk := hothers n.toNat hn fun h => hne (BitVec.eq_of_toNat_eq h)
    exact (getD_toList_of_lt r hn _).trans (hk.trans (getD_toList_of_lt s.a32.r hn _).symm)
  · exact (getD_toList_of_ge r (by omega) _).trans (getD_toList_of_ge s.a32.r (by omega) _).symm

/-- Settles O23. -/
theorem crcA32Frames : Obligations.CrcA32Frames :=
  fun _ _ _ _ _ _ _ =>
    ⟨crcA32Frame rfl rfl, crcA32Frame rfl rfl, crcA32Frame rfl rfl, crcA32Frame rfl rfl, crcA32Frame rfl rfl,
      crcA32Frame rfl rfl, crcA32Frame rfl rfl, crcA32Frame rfl rfl, crcA32Frame rfl rfl, crcA32Frame rfl rfl,
      crcA32Frame rfl rfl, crcA32Frame rfl rfl⟩

/-! ### The step -/

/-- A completed step runs an instruction of the state's view, which moves that view's record. -/
theorem step_moves {s t : State} (hstep : step s = .next t) :
    (s.view = .a64 ∧ ∃ x sp, t = movedA64 x sp s) ∨ (s.view ≠ .a64 ∧ ∃ r draws, t = movedA32 r draws s) := by
  obtain ⟨-, -, w, i, -, hdecode, hexec⟩ := step_next s t hstep
  obtain ⟨hword, -⟩ := decode_ok s.cfg s.view w i hdecode
  obtain ⟨hview, -, -⟩ := encode_of_decodeWord hword
  cases hf : crcFields i with
  | none =>
    have ha64 := (crcFields_eq_none_iff i).mp hf
    exact .inl ⟨hview ▸ ha64, exec_a64_next ha64 hexec⟩
  | some f =>
    obtain ⟨r, draws, ht, -⟩ := exec_aarch32_next hf hexec
    refine .inr ⟨fun ha64 => ?_, r, draws, ht⟩
    rw [(crcFields_eq_none_iff i).mpr (hview.trans ha64)] at hf
    cases hf

/-- Settles O35. -/
theorem stepChangesOnlyRegisters : Obligations.StepChangesOnlyRegisters := by
  intro s t hstep
  rcases step_moves hstep with ⟨hview, x, sp, rfl⟩ | ⟨hview, r, draws, rfl⟩
  · exact ⟨⟨rfl, rfl, rfl, rfl, rfl, fun _ => rfl⟩, ⟨rfl, rfl⟩, ⟨rfl, rfl, rfl⟩, fun _ => ⟨rfl, rfl⟩,
      fun hne => absurd hview hne⟩
  · exact ⟨⟨rfl, rfl, rfl, rfl, rfl, fun _ => rfl⟩, ⟨rfl, rfl⟩, ⟨rfl, rfl, rfl⟩, fun heq => absurd heq hview,
      fun _ => ⟨rfl, rfl⟩⟩

end Sys2Proof.Machine
end

section
/-! SUPPORT. The fetch and the step around an instruction, the run invariant and the end of a run (spec/20_memory.md R41 to
R45; spec/60_exceptions.md R126; spec/70_reset_and_hazards.md R131, R133). -/

namespace Sys2Proof.Machine

open Statements

/-! ### The fetch -/

theorem State.fetch_of_bytesAtPc {s : State} {b0 b1 b2 b3 : Byte} (h : bytesAtPc s b0 b1 b2 b3) :
    s.fetch = .ok (wordOfBytes s.view b0 b1 b2 b3) := by
  obtain ⟨halign, h0, h1, h2, h3⟩ := h
  simp only [State.fetch, h0, h1, h2, h3, if_pos halign]

/-- The number of two bit strings one above the other. -/
theorem toNat_append_eq_add {m n : Nat} (x : BitVec m) (y : BitVec n) : (x ++ y).toNat = 2 ^ n * x.toNat + y.toNat := by
  rw [BitVec.toNat_append, ← Nat.shiftLeft_add_eq_or_of_lt y.isLt, Nat.shiftLeft_eq, Nat.mul_comm]

/-- Settles O29: the bytes stand one above the other in the word. -/
theorem fetchAssemblesBytes : Obligations.FetchAssemblesBytes := by
  intro s b0 b1 b2 b3 hbytes
  refine ⟨_, State.fetch_of_bytesAtPc hbytes, fun hview => ?_, fun hview => ?_⟩
  · have hword : wordOfBytes s.view b0 b1 b2 b3 = b3 ++ b2 ++ b1 ++ b0 := by
      cases hv : s.view with
      | a64 | a32 => rfl
      | t32 => exact absurd hv hview
    rw [hword, toNat_append_eq_add, toNat_append_eq_add, toNat_append_eq_add]
    omega
  · rw [hview, wordOfBytes, toNat_append_eq_add, toNat_append_eq_add, toNat_append_eq_add]
    omega

theorem State.textByte_eq_none {s : State} {addr : Nat} (h : addr < s.textBase ∨ s.textEnd ≤ addr) :
    s.textByte addr = none :=
  if_neg fun ⟨hlow, hhigh⟩ => h.elim hlow.not_gt hhigh.not_ge

/-- R45, R41: where no instruction of the text stands, only the end of the text is told apart. -/
theorem State.fetch_outside {s : State}
    (h : s.pcOf % View.fetchAlign s.view ≠ 0 ∨ s.pcOf < s.textBase ∨ s.textEnd ≤ s.pcOf) :
    s.fetch = if s.pcOf = s.textEnd then .error .endOfRun else .error .fetchOutsideText := by
  by_cases halign : s.pcOf % View.fetchAlign s.view = 0
  · have hnone : s.textByte s.pcOf = none := State.textByte_eq_none (h.resolve_left (not_not_intro halign))
    simp only [State.fetch, if_pos halign, hnone]
  · simp only [State.fetch, if_neg halign]

/-- A fetch says `endOfRun` at the end of the text only. -/
theorem State.pcOf_of_fetch_endOfRun {s : State} (h : s.fetch = .error .endOfRun) : s.pcOf = s.textEnd := by
  by_contra hne
  simp only [State.fetch, if_neg hne] at h
  split at h
  · split at h <;> cases h
  · cases h

/-! ### The step, stage by stage -/

theorem step_of_launchRefusal {s : State} {r : Refusal} (hmark : s.mark = .running) (hlaunch : s.launchRefusal = some r) :
    step s = .refused r := by
  simp only [step, hmark, hlaunch]

theorem step_of_fetch_error {s : State} {r : Refusal} (hmark : s.mark = .running) (hlaunch : s.launchRefusal = none)
    (hfetch : s.fetch = .error r) : step s = .refused r := by
  simp only [step, hmark, hlaunch, hfetch]

theorem step_of_decode_ok {s : State} {w : Word} {i : Instr} (hmark : s.mark = .running) (hlaunch : s.launchRefusal = none)
    (hfetch : s.fetch = .ok w) (hdecode : decode s.cfg s.view w = .ok i) : step s = exec i s := by
  simp only [step, hmark, hlaunch, hfetch, hdecode]

theorem decodeWord_of_decodeBytes {v : View} {b0 b1 b2 b3 : Byte} {i : Instr} {rest : List Byte}
    (h : decodeBytes v [b0, b1, b2, b3] = .ok (i, rest)) : decodeWord v (wordOfBytes v b0 b1 b2 b3) = .ok i := by
  rw [decodeBytes] at h
  split at h
  next j hj => cases h; exact hj
  next => cases h

/-- Settles O30. -/
theorem stepRunsDecoded : Obligations.StepRunsDecoded := by
  intro s b0 b1 b2 b3 i hmark hlaunch hbytes hdecode hadmitted
  exact step_of_decode_ok hmark hlaunch (State.fetch_of_bytesAtPc hbytes)
    (decode_ok_iff.mpr ⟨decodeWord_of_decodeBytes hdecode, hadmitted⟩)

/-- Settles O31. -/
theorem fetchOutsideTheText : Obligations.FetchOutsideTheText := by
  intro s hmark hlaunch houtside
  have hfetch := State.fetch_outside houtside
  by_cases hend : s.pcOf = s.textEnd
  · rw [if_pos hend] at hfetch ⊢
    exact step_of_fetch_error hmark hlaunch hfetch
  · rw [if_neg hend] at hfetch ⊢
    exact step_of_fetch_error hmark hlaunch hfetch

theorem State.viewExists_iff (s : State) : s.viewExists = true ↔ s.view = .a64 ∨ s.cfg.haveAArch32 = true := by
  cases hview : s.view <;> simp [State.viewExists, hview]

theorem addressLimit_eq (v : View) : View.addressLimit v = if v = .a64 then 2 ^ 64 else 2 ^ 32 := by
  cases v <;> rfl

/-- A view that exists and a text below its top are a good launch (R45, R131). -/
theorem State.launchRefusal_eq_none {s : State} (hexists : s.viewExists = true)
    (htop : s.textEnd < View.addressLimit s.view) : s.launchRefusal = none := by
  rw [State.launchRefusal, if_neg (by simp [hexists]), if_neg htop.not_ge]

/-- Settles O32: the launch is looked at before the fetch. -/
theorem badLaunchRefused : Obligations.BadLaunchRefused := by
  refine fun s hmark => ⟨fun hview habsent => ?_, fun hexists htop => ?_⟩
  · have habsentView : s.viewExists = false := by
      rw [← Bool.not_eq_true, State.viewExists_iff, habsent]
      simp [hview]
    exact step_of_launchRefusal hmark (if_pos habsentView)
  · have hexistsView : s.viewExists ≠ false := by simp [(State.viewExists_iff s).mpr hexists]
    rw [← addressLimit_eq] at htop
    exact step_of_launchRefusal hmark ((if_neg hexistsView).trans (if_pos htop))

/-! ### The mark -/

theorem State.after_of_fault {s : State} {f : Fault} (h : step s = .fault f) : s.after = { s with mark := .faulted f } := by
  rw [State.after, h]
  rfl

theorem State.after_of_refused {s : State} {r : Refusal} (hr : r ≠ .endOfRun) (h : step s = .refused r) :
    s.after = { s with mark := .refused r } := by
  rw [State.after, h, State.settle.eq_def]
  cases r with
  | endOfRun => exact absurd rfl hr
  | notShown | fetchOutsideText | viewAbsent | textReachesTop | notModelled => rfl

/-- R133: at the end of a run no step exists, so the state stays. -/
theorem State.after_of_endOfRun {s : State} (h : step s = .refused .endOfRun) : s.after = s := by
  rw [State.after, h]
  rfl

theorem step_of_faulted {s : State} {f : Fault} (h : s.mark = .faulted f) : step s = .fault f := by
  simp only [step, h]

theorem step_of_refused {s : State} {r : Refusal} (h : s.mark = .refused r) : step s = .refused r := by
  simp only [step, h]

/-- Putting the mark that is there changes nothing. -/
theorem State.with_mark_self {s : State} {m : Mark} (h : s.mark = m) : { s with mark := m } = s := by
  subst h
  rfl

/-- R126: a marked state stops again with its mark, and stays as it is. -/
theorem marked_stays {s : State} (hmark : s.mark ≠ .running) : (∀ t, step s ≠ .next t) ∧ s.after = s := by
  cases hm : s.mark with
  | running => exact absurd hm hmark
  | faulted f =>
    have hstep := step_of_faulted hm
    exact ⟨by simp [hstep], (State.after_of_fault hstep).trans (State.with_mark_self hm)⟩
  | refused r =>
    have hstep := step_of_refused hm
    refine ⟨by simp [hstep], ?_⟩
    by_cases hend : r = .endOfRun
    · subst hend
      exact State.after_of_endOfRun hstep
    · exact (State.after_of_refused hend hstep).trans (State.with_mark_self hm)

/-- Settles O33. -/
theorem outcomeIsSticky : Obligations.OutcomeIsSticky := by
  refine ⟨fun s f => State.after_of_fault, fun s r => State.after_of_refused, fun s => marked_stays, fun s t hstep => ?_⟩
  obtain ⟨hmark, -⟩ := step_next s t hstep
  obtain ⟨⟨-, -, hsame, -⟩, -⟩ := stepChangesOnlyRegisters s t hstep
  exact ⟨hmark, hsame.trans hmark⟩

/-! ### The run -/

/-- What a completed step leaves as it is for the run invariant, and how far `pc` moves. -/
structure StepsOn (s t : State) : Prop where
  view : t.view = s.view
  cfg : t.cfg = s.cfg
  mark : t.mark = s.mark
  mem : t.mem = s.mem
  textBase : t.textBase = s.textBase
  textWords : t.textWords = s.textWords
  pcOf : t.pcOf = s.pcOf + 4

/-- Below the top of the address space `pc + 4` does not wrap. -/
theorem pcOf_movedA64 {s : State} (hview : s.view = .a64) (x : Vector DWord 31) (sp : DWord)
    (hpc : s.pcOf + 4 < View.addressLimit s.view) : (movedA64 x sp s).pcOf = s.pcOf + 4 := by
  simp only [State.pcOf, movedA64, hview, View.addressLimit] at hpc ⊢
  rw [BitVec.toNat_add]
  exact Nat.mod_eq_of_lt hpc

theorem pcOf_movedA32 {s : State} (hview : s.view ≠ .a64) (r : Vector Word 15) (draws : Nat)
    (hpc : s.pcOf + 4 < View.addressLimit s.view) : (movedA32 r draws s).pcOf = s.pcOf + 4 := by
  cases hv : s.view with
  | a64 => exact absurd hv hview
  | a32 | t32 =>
    simp only [State.pcOf, movedA32, hv, View.addressLimit] at hpc ⊢
    rw [BitVec.toNat_add]
    exact Nat.mod_eq_of_lt hpc

/-- A completed step fetched a whole instruction of the text. -/
theorem pcOf_of_step_next {s t : State} (hstep : step s = .next t) :
    s.pcOf + 4 ≤ s.textEnd ∧ s.textEnd < View.addressLimit s.view := by
  obtain ⟨-, hlaunch, w, i, hfetch, -⟩ := step_next s t hstep
  obtain ⟨-, htop⟩ := State.launchRefusal_none s hlaunch
  obtain ⟨-, b0, b1, b2, b3, -, -, -, h3, -⟩ := State.fetch_ok s w hfetch
  obtain ⟨-, hlast, -⟩ := State.textByte_range s _ b3 h3
  exact ⟨by omega, htop⟩

theorem stepsOn {s t : State} (hstep : step s = .next t) : StepsOn s t := by
  obtain ⟨hin, htop⟩ := pcOf_of_step_next hstep
  rcases step_moves hstep with ⟨hview, x, sp, rfl⟩ | ⟨hview, r, draws, rfl⟩
  · exact ⟨rfl, rfl, rfl, rfl, rfl, rfl, pcOf_movedA64 hview x sp (by omega)⟩
  · exact ⟨rfl, rfl, rfl, rfl, rfl, rfl, pcOf_movedA32 hview r draws (by omega)⟩

/-- Settles O36: the text is as it was, and the fetch left room for `pc + 4`. -/
theorem stepKeepsRunInv : Obligations.StepKeepsRunInv := by
  intro s t hinv hstep
  obtain ⟨hview, hcfg, hmark, hmem, hbase, hwords, hpc⟩ := stepsOn hstep
  obtain ⟨hin, -⟩ := pcOf_of_step_next hstep
  have hend : t.textEnd = s.textEnd := by rw [State.textEnd, hbase, hwords, State.textEnd]
  have hlow := hinv.pcLow
  have haligned := hinv.pcAligned
  exact
    { viewExists := by rw [State.viewExists_iff, hview, hcfg, ← State.viewExists_iff]; exact hinv.viewExists
      textGiven := by rw [State.TextGiven, hmem, hbase, hwords]; exact hinv.textGiven
      belowTop := by rw [hend, hview]; exact hinv.belowTop
      baseAligned := by rw [hbase, hview]; exact hinv.baseAligned
      running := hmark.trans hinv.running
      pcLow := by rw [hpc, hbase]; omega
      pcHigh := by rw [hpc, hend]; exact hin
      pcAligned := by rw [hpc, hbase]; omega }

/-- A run of one step more that completes took a step first. -/
theorem run_succ_next {M : Host.Core} {n : Nat} {s t : M.State} (h : M.run (n + 1) s = .next t) :
    ∃ s', M.step s = .next s' ∧ M.run n s' = .next t := by
  rw [Host.Core.run] at h
  split at h
  next s' hstep => exact ⟨s', hstep, h⟩
  next => cases h
  next => cases h

/-- After `n` completed steps `pc` has passed `n` instructions of the same text. -/
theorem run_next {n : Nat} {s t : State} (hinv : s.RunInv) (hrun : Sys2Proof.core.run n s = .next t) :
    t.RunInv ∧ t.pcOf = s.pcOf + 4 * n ∧ t.textBase = s.textBase ∧ t.textWords = s.textWords := by
  induction n generalizing s with
  | zero =>
    cases hrun
    exact ⟨hinv, rfl, rfl, rfl⟩
  | succ n ih =>
    obtain ⟨s', hstep, hrest⟩ := run_succ_next (M := Sys2Proof.core) hrun
    obtain ⟨-, -, -, -, hbase, hwords, hpc⟩ := stepsOn hstep
    obtain ⟨hinv', hpc', hbase', hwords'⟩ := ih (stepKeepsRunInv s s' hinv hstep) hrest
    exact ⟨hinv', by omega, hbase'.trans hbase, hwords'.trans hwords⟩

theorem State.ended_iff (s : State) : s.ended = true ↔ s.mark = .running ∧ s.pcOf = s.textEnd := by
  simp [State.ended]

theorem State.RunInv.launchRefusal {s : State} (hinv : s.RunInv) : s.launchRefusal = none :=
  State.launchRefusal_eq_none hinv.viewExists hinv.belowTop

/-- A state of the run answers `endOfRun` for one reason: its fetch did. -/
theorem fetch_of_step_endOfRun {s : State} (hmark : s.mark = .running) (hlaunch : s.launchRefusal = none)
    (h : step s = .refused .endOfRun) : s.fetch = .error .endOfRun := by
  cases hfetch : s.fetch with
  | error r =>
    rw [step_of_fetch_error hmark hlaunch hfetch] at h
    cases h
    rfl
  | ok w =>
    cases hdecode : decode s.cfg s.view w with
    | error e =>
      rw [step_of_decode_error hmark hlaunch hfetch hdecode] at h
      cases h
    | ok i =>
      rw [step_of_decode_ok hmark hlaunch hfetch hdecode] at h
      exact absurd h (meaningsNeverRefuse i s .endOfRun)

theorem step_endOfRun_iff_ended {s : State} (hinv : s.RunInv) : step s = .refused .endOfRun ↔ s.ended = true := by
  have hmark := hinv.running
  have hlaunch := hinv.launchRefusal
  rw [State.ended_iff, and_iff_right hmark]
  constructor
  · exact fun h => State.pcOf_of_fetch_endOfRun (fetch_of_step_endOfRun hmark hlaunch h)
  · intro hpc
    rw [fetchOutsideTheText s hmark hlaunch (.inr (.inr hpc.ge)), if_pos hpc]

/-- Settles O38: by induction on the steps, and by what the fetch answers at the end of the text. -/
theorem runEndsAfterTheText : Obligations.RunEndsAfterTheText := by
  refine ⟨fun s t n hlaunch hrun => ?_, fun s => step_endOfRun_iff_ended, fun s hinv hended => ?_⟩
  · obtain ⟨hinv, hpc, hbase, hwords⟩ := run_next hlaunch.inv hrun
    have hstart := hlaunch.pcAtBase
    have hhigh := hinv.pcHigh
    rw [State.ended_iff, and_iff_right hinv.running]
    rw [State.textEnd, hbase, hwords] at hhigh ⊢
    omega
  · exact State.after_of_endOfRun ((step_endOfRun_iff_ended hinv).mpr hended)

/-! ### Reset -/

/-- Settles O37. -/
theorem resetIsLaunch : Obligations.ResetIsLaunch := by
  have hx : ∀ n, xReg State.reset n = 0#64 := by decide
  have hr : ∀ n, rReg State.reset n = 0#32 := by decide
  have hinv : State.reset.RunInv := by constructor <;> decide
  exact ⟨⟨hinv, rfl⟩, hx, rfl, rfl, rfl, rfl, hr, rfl, rfl, rfl, rfl, rfl, rfl, rfl, rfl, fun _ => rfl, rfl, rfl, rfl, rfl,
    rfl, rfl⟩

end Sys2Proof.Machine
end

section
/-! SUPPORT. What a step does not look at: the other view's record, the DIT bits and the flags (spec/10_state.md R26, R27, R31,
R33, R39; spec/92_eei_decisions.md D23). -/

namespace Sys2Proof.Machine

open Statements

/-! ### Updates that an instruction does not see -/

/-- An update of `s` that no A64 instruction sees: it keeps what such an instruction reads, and may as well be made after
the instruction. -/
structure Unseen64 (u : State → State) (s : State) : Prop where
  x : (u s).a64.x = s.a64.x
  sp : (u s).a64.sp = s.a64.sp
  cfg : (u s).cfg = s.cfg
  moved : ∀ x sp, u (movedA64 x sp s) = movedA64 x sp (u s)

/-- The same for the AArch32 instructions. -/
structure Unseen32 (u : State → State) (s : State) : Prop where
  r : (u s).a32.r = s.a32.r
  inItBlock : (u s).a32.inItBlock = s.a32.inItBlock
  cfg : (u s).cfg = s.cfg
  draws : (u s).draws = s.draws
  cond : ∀ cond, (u s).checkCond cond = s.checkCond cond
  moved : ∀ r draws, u (movedA32 r draws s) = movedA32 r draws (u s)

section Unseen

variable {u : State → State} {s : State}

theorem Unseen64.xReg (hu : Unseen64 u s) (n : BitVec 5) : xReg (u s) n = xReg s n := by
  rw [Statements.xReg, hu.x, Statements.xReg]

theorem Unseen64.xspReg (hu : Unseen64 u s) (n : BitVec 5) : xspReg (u s) n = xspReg s n := by
  rw [Statements.xspReg, hu.sp, hu.xReg, Statements.xspReg]

theorem Unseen64.addExtended (hu : Unseen64 u s) (n : Nat) (word : Word) (rm : BitVec 5) (option : ExtendType)
    (imm3 : BitVec 3) (rn rd : BitVec 5) :
    addExtended n word rm option imm3 rn rd (u s) = mapNext u (addExtended n word rm option imm3 rn rd s) := by
  rcases imm3_cases imm3 with ⟨himm3, -⟩ | ⟨himm3, -⟩
  · rw [addExtended_of_four_lt _ _ _ _ _ _ _ _ himm3, addExtended_of_four_lt _ _ _ _ _ _ _ _ himm3, mapNext]
  · rw [addExtended_of_le_four _ _ _ _ _ _ _ _ himm3, addExtended_of_le_four _ _ _ _ _ _ _ _ himm3, mapNext,
      addDone_eq_movedA64, addDone_eq_movedA64, hu.moved, hu.x, hu.sp, hu.xReg, hu.xspReg]

theorem crc64Done_eq_movedA64 (size : Nat) (rm rn rd : BitVec 5) (s : State) :
    crc64Done size rm rn rd s = movedA64 (s.a64.x.setIfInBounds rd.toNat
      ((crc size ((xReg s rn).setWidth 32) ((xReg s rm).setWidth size) true).setWidth 64)) s.a64.sp s := rfl

theorem Unseen64.crcA64 (hu : Unseen64 u s) (word : Word) (sz : BitVec 2) (sf : Bool) (rm rn rd : BitVec 5) :
    crcA64 word sz sf rm rn rd (u s) = mapNext u (crcA64 word sz sf rm rn rd s) := by
  by_cases hmatch : s.cfg.haveCrc = true ∧ sf = sfOfSz sz
  · obtain ⟨hext, hsf⟩ := hmatch
    rw [crcA64_of_match word rm rn rd hext hsf, crcA64_of_match word rm rn rd (by rw [hu.cfg, hext]) hsf, mapNext,
      crc64Done_eq_movedA64, crc64Done_eq_movedA64, hu.moved, hu.x, hu.sp, hu.xReg, hu.xReg]
  · rw [crcA64_of_mismatch word rm rn rd hmatch, crcA64_of_mismatch word rm rn rd (by rwa [hu.cfg]), mapNext]

theorem Unseen64.exec (hu : Unseen64 u s) {i : Instr} (hview : i.view = .a64) :
    Machine.exec i (u s) = mapNext u (Machine.exec i s) := by
  cases i with
  | addExt32 | addExt64 => exact hu.addExtended ..
  | crc32cbA64 | crc32chA64 | crc32cwA64 | crc32cxA64 => exact hu.crcA64 ..
  | _ => cases hview

theorem Unseen32.checkSize (hu : Unseen32 u s) (sz : BitVec 2) : (u s).checkSize sz = s.checkSize sz := by
  simp only [State.checkSize, State.size64Choice, hu.cfg, hu.draws]

theorem Unseen32.crcChecks (hu : Unseen32 u s) (f : CrcFields) (sz : BitVec 2) :
    crcChecks f sz (u s) = crcChecks f sz s := by
  have hit : itCheck f.a1 (u s) = itCheck f.a1 s := by rw [itCheck, State.checkItBlock_eq, hu.inItBlock]; rfl
  have hext : (u s).checkCrcExt = s.checkCrcExt := by rw [State.checkCrcExt_eq, hu.cfg]; rfl
  simp only [Machine.crcChecks, hit, hext, hu.checkSize, hu.cond]

theorem Unseen32.drew (hu : Unseen32 u s) (cond : BitVec 4) (sz : BitVec 2) :
    ((u s).drewSize sz || (u s).drewCond cond sz) = (s.drewSize sz || s.drewCond cond sz) := by
  simp only [State.drewSize, State.drewCond, hu.checkSize, hu.cfg]

theorem Unseen32.finishCrc (hu : Unseen32 u s) (word : Word) (crc32c drew : Bool) (c : Check CrcOperands) :
    (u s).finishCrc word crc32c drew c = mapNext u (s.finishCrc word crc32c drew c) := by
  cases c with
  | stop cause => cases cause <;> rfl
  | nop =>
    have hdone : ∀ t : State, (t.passDraw drew).advance32 = movedA32 t.a32.r (if drew then t.draws + 1 else t.draws) t :=
      fun _ => rfl
    rw [State.finishCrc, State.finishCrc, mapNext, hdone, hdone, hu.moved, hu.r, hu.draws]
  | pass op =>
    have hdone : ∀ t : State, ((t.crcWrite op crc32c).passDraw drew).advance32 =
        movedA32 (t.a32.r.set op.d (crc op.size t.a32.r[op.n] (t.a32.r[op.m].setWidth op.size) crc32c))
          (if drew then t.draws + 1 else t.draws) t := fun _ => rfl
    rw [State.finishCrc, State.finishCrc, mapNext, hdone, hdone, hu.moved, hu.r, hu.draws]

theorem Unseen32.exec (hu : Unseen32 u s) {i : Instr} (hview : i.view ≠ .a64) :
    Machine.exec i (u s) = mapNext u (Machine.exec i s) := by
  cases hf : crcFields i with
  | none => exact absurd ((crcFields_eq_none_iff i).mp hf) hview
  | some f =>
    obtain ⟨sz, crc32c, -, hexec⟩ := carriesOutChecks hf
    rw [hexec, hexec, hu.crcChecks, hu.drew, hu.finishCrc]

/-! ### Updates that a step does not see -/

/-- An update of `s` that keeps what the step looks at before it executes. -/
structure KeepsFetch (u : State → State) (s : State) : Prop where
  mark : (u s).mark = s.mark
  view : (u s).view = s.view
  cfg : (u s).cfg = s.cfg
  mem : (u s).mem = s.mem
  textBase : (u s).textBase = s.textBase
  textWords : (u s).textWords = s.textWords
  pcOf : (u s).pcOf = s.pcOf

theorem KeepsFetch.textEnd (hu : KeepsFetch u s) : (u s).textEnd = s.textEnd := by
  rw [State.textEnd, hu.textBase, hu.textWords, State.textEnd]

theorem KeepsFetch.launchRefusal (hu : KeepsFetch u s) : (u s).launchRefusal = s.launchRefusal := by
  have hexists : (u s).viewExists = s.viewExists := by
    rw [Bool.eq_iff_iff, State.viewExists_iff, State.viewExists_iff, hu.view, hu.cfg]
  simp only [State.launchRefusal, hexists, hu.textEnd, hu.view]

theorem KeepsFetch.textByte (hu : KeepsFetch u s) (addr : Nat) : (u s).textByte addr = s.textByte addr := by
  simp only [State.textByte, hu.textBase, hu.textWords, hu.mem]

theorem KeepsFetch.fetch (hu : KeepsFetch u s) : (u s).fetch = s.fetch := by
  simp only [State.fetch, hu.textByte, hu.textEnd, hu.view, hu.pcOf]

/-- A step does not see an update that its fetch and its instruction do not see. -/
theorem KeepsFetch.step (hu : KeepsFetch u s)
    (hexec : ∀ i : Instr, i.view = s.view → exec i (u s) = mapNext u (exec i s)) :
    Machine.step (u s) = mapNext u (Machine.step s) := by
  cases hmark : s.mark with
  | faulted f => rw [step_of_faulted hmark, step_of_faulted (hu.mark.trans hmark), mapNext]
  | refused r => rw [step_of_refused hmark, step_of_refused (hu.mark.trans hmark), mapNext]
  | running =>
    have hmark' := hu.mark.trans hmark
    cases hlaunch : s.launchRefusal with
    | some r =>
      rw [step_of_launchRefusal hmark hlaunch, step_of_launchRefusal hmark' (hu.launchRefusal.trans hlaunch), mapNext]
    | none =>
      have hlaunch' := hu.launchRefusal.trans hlaunch
      cases hfetch : s.fetch with
      | error r =>
        rw [step_of_fetch_error hmark hlaunch hfetch, step_of_fetch_error hmark' hlaunch' (hu.fetch.trans hfetch), mapNext]
      | ok w =>
        have hfetch' := hu.fetch.trans hfetch
        have hsame : decode (u s).cfg (u s).view w = decode s.cfg s.view w := by rw [hu.cfg, hu.view]
        cases hdecode : decode s.cfg s.view w with
        | error e =>
          rw [step_of_decode_error hmark hlaunch hfetch hdecode,
            step_of_decode_error hmark' hlaunch' hfetch' (hsame.trans hdecode), mapNext]
        | ok i =>
          obtain ⟨hword, -⟩ := decode_ok s.cfg s.view w i hdecode
          obtain ⟨hview, -, -⟩ := encode_of_decodeWord hword
          rw [step_of_decode_ok hmark hlaunch hfetch hdecode,
            step_of_decode_ok hmark' hlaunch' hfetch' (hsame.trans hdecode), hexec i hview]

end Unseen

/-- Settles O39: neither record's instructions see a replacement of the other record. -/
theorem viewsDoNotTouchEachOther : Obligations.ViewsDoNotTouchEachOther := by
  refine ⟨fun s q hview => ?_, fun s q hview => ?_⟩
  · have hfetch : KeepsFetch (fun t => { t with a32 := q }) s :=
      ⟨rfl, rfl, rfl, rfl, rfl, rfl, by simp only [State.pcOf, hview]⟩
    have hexec : Unseen64 (fun t => { t with a32 := q }) s := ⟨rfl, rfl, rfl, fun _ _ => rfl⟩
    exact hfetch.step fun i hi => hexec.exec (hi.trans hview)
  · have hpc : State.pcOf { s with a64 := q } = s.pcOf := by
      cases hv : s.view with
      | a64 => exact absurd hv hview
      | a32 | t32 => simp only [State.pcOf, hv]
    have hfetch : KeepsFetch (fun t => { t with a64 := q }) s := ⟨rfl, rfl, rfl, rfl, rfl, rfl, hpc⟩
    have hexec : Unseen32 (fun t => { t with a64 := q }) s := ⟨rfl, rfl, rfl, rfl, fun _ => rfl, fun _ _ => rfl⟩
    exact hfetch.step fun i hi => hexec.exec (hi ▸ hview)

/-- An update that neither view's instructions see. -/
theorem step_unseen {u : State → State} {s : State} (hfetch : KeepsFetch u s) (h64 : Unseen64 u s) (h32 : Unseen32 u s) :
    step (u s) = mapNext u (step s) := by
  refine hfetch.step fun i _ => ?_
  by_cases hview : i.view = .a64
  · exact h64.exec hview
  · exact h32.exec hview

theorem State.condChoice_ne_conditional {s : State} (hcond : s.cfg.cuCond ≠ .always .conditional)
    (hvary : s.cfg.cuCond ≠ .varying) : s.condChoice ≠ some .conditional := by
  cases hcu : s.cfg.cuCond with
  | defaultTreatment => simp [State.condChoice_of_default hcu]
  | always b =>
    rw [State.condChoice_of_always hcu]
    rintro ⟨⟩
    exact hcond hcu
  | varying => exact absurd hcu hvary

/-- R81: only the behaviour `Conditional` looks at the flags. -/
theorem State.checkCond_of_flags {s : State} (hchoice : s.condChoice ≠ some .conditional) (f : Flags) (cond : BitVec 4) :
    State.checkCond { s with a32 := { s.a32 with flags := f } } cond = s.checkCond cond := by
  by_cases halways : cond = 14#4
  · rw [halways, State.checkCond_fourteen, State.checkCond_fourteen]
  rcases hc : s.condChoice with _ | _ | _ | _ | _
  · rw [State.checkCond_of_no_choice halways hc, State.checkCond_of_no_choice halways (by exact hc)]
  · rw [State.checkCond_of_undefined halways hc, State.checkCond_of_undefined halways (by exact hc)]
  · rw [State.checkCond_of_nop halways hc, State.checkCond_of_nop halways (by exact hc)]
  · rw [State.checkCond_of_unconditional halways hc, State.checkCond_of_unconditional halways (by exact hc)]
  · exact absurd hc hchoice

/-- Settles O40. -/
theorem statusBitsNotConsulted : Obligations.StatusBitsNotConsulted := by
  refine fun s d d' f f' => ⟨?_, fun hcond hvary => ?_⟩
  · exact step_unseen
      (u := fun t => { t with a64 := { t.a64 with dit := d, flags := f }, a32 := { t.a32 with dit := d' } })
      ⟨rfl, rfl, rfl, rfl, rfl, rfl, rfl⟩ ⟨rfl, rfl, rfl, fun _ _ => rfl⟩
      ⟨rfl, rfl, rfl, rfl, fun _ => rfl, fun _ _ => rfl⟩
  · exact step_unseen (u := fun t => { t with a32 := { t.a32 with flags := f' } })
      ⟨rfl, rfl, rfl, rfl, rfl, rfl, rfl⟩ ⟨rfl, rfl, rfl, fun _ _ => rfl⟩
      ⟨rfl, rfl, rfl, rfl, State.checkCond_of_flags (State.condChoice_ne_conditional hcond hvary) f', fun _ _ => rfl⟩

end Sys2Proof.Machine
end

section
/-! SUPPORT. Loading one instruction from outside, and running it (spec/70_reset_and_hazards.md R131; log 9). -/

namespace Sys2Proof

/-- The stored bytes of an instruction's word decode in its own view, and in no other. -/
theorem decodeStored_encode {i : Instr} (hwf : i.wellFormed = true) (v : View) :
    decodeStored v (encode i) = if v = i.view then some i else none := by
  have hown := decodeOfEncode i hwf
  by_cases hv : v = i.view
  · rw [if_pos hv, decodeStored, decodeBytes_bytesOfWord, hv, hown]
  · rw [if_neg hv, decodeStored, decodeBytes_bytesOfWord]
    cases hdecode : decodeWord v (encode i) with
    | error e => rfl
    | ok j => exact absurd (viewsShareNoWord v i.view _ j i hdecode hown).1 hv

theorem ofNat_toNat_mod (w : Word) : BitVec.ofNat 32 (w.toNat % 2 ^ 32) = w := by
  rw [Nat.mod_eq_of_lt w.isLt, BitVec.ofNat_toNat, BitVec.setWidth_eq]

theorem decodeTableWord_encode {i : Instr} (hwf : i.wellFormed = true) : decodeTableWord 32 (encode i).toNat = some i := by
  rw [decodeTableWord, ofNat_toNat_mod, decodeStored_encode hwf, decodeStored_encode hwf, decodeStored_encode hwf]
  cases i.view <;> rfl

namespace Machine

open Statements

/-! ### Placing bytes at `pc` -/

section Place

variable (s : State) (bytes : List Byte)

theorem State.placeAtPc_keeps :
    (s.placeAtPc bytes).view = s.view ∧ (s.placeAtPc bytes).cfg = s.cfg ∧ (s.placeAtPc bytes).a64 = s.a64 ∧
      (s.placeAtPc bytes).a32 = s.a32 := by
  unfold State.placeAtPc
  split <;> exact ⟨rfl, rfl, rfl, rfl⟩

/-- The text stays where it was, or becomes the one instruction. -/
theorem State.placeAtPc_textEnd :
    (s.placeAtPc bytes).textEnd = s.textEnd ∨ (s.placeAtPc bytes).textEnd = s.pcOf + 4 := by
  unfold State.placeAtPc
  split
  · exact .inl rfl
  · exact .inr rfl

/-- The bytes are read back at `pc`. -/
theorem State.placeAtPc_textByte (hlen : bytes.length = 4) (k : Nat) (hk : k < bytes.length) :
    (s.placeAtPc bytes).textByte (s.pcOf + k) = some bytes[k] := by
  unfold State.placeAtPc
  split
  next hin =>
    obtain ⟨hlow, hhigh⟩ := hin
    have hrange : s.textBase ≤ s.pcOf + k ∧ s.pcOf + k < s.textEnd := by omega
    exact (if_pos hrange).trans (Memory.read_writeList _ _ _ _ hk)
  next =>
    have hrange : s.pcOf ≤ s.pcOf + k ∧ s.pcOf + k < s.pcOf + 4 * 1 := by omega
    exact (if_pos hrange).trans (Memory.read_writeList _ _ _ _ hk)

end Place

/-- Loading an instruction's word sets up its view and puts its bytes at `pc` (log 9). -/
theorem State.withFetchWord_encode (s : State) {i : Instr} (hwf : i.wellFormed = true) :
    s.withFetchWord 32 (encode i).toNat =
      { (s.admitRow i).placeAtPc (bytesOfWord i.view (encode i)) with mark := .running } := by
  simp only [State.withFetchWord, State.loadWord, decodeTableWord_encode hwf, ofNat_toNat_mod]
  rfl

theorem State.admitRow_viewExists (s : State) (i : Instr) : (s.admitRow i).viewExists = true := by
  rw [State.viewExists_iff]
  by_cases hview : i.view = .a64
  · exact .inl hview
  · exact .inr (by simp [State.admitRow, hview])

theorem State.admitRow_admitted (s : State) (i : Instr) : i.admitted (s.admitRow i).cfg = true := by
  cases htitle : i.isTitleRow <;> cases hc : i.isCOneRow <;> simp [Instr.admitted, State.admitRow, htitle, hc]

/-- A state ready for the instruction, with the word's bytes placed at `pc` and the mark set, runs it. -/
theorem step_placed {s : State} {i : Instr} (hwf : i.wellFormed = true) (hview : s.view = i.view)
    (hexists : s.viewExists = true) (hadmitted : i.admitted s.cfg = true) (halign : s.pcOf % View.fetchAlign s.view = 0)
    (hroom : s.pcOf + 4 < View.addressLimit s.view) (htop : s.textEnd < View.addressLimit s.view) {u : State}
    (hu : u = { s.placeAtPc (bytesOfWord i.view (encode i)) with mark := .running }) : step u = exec i u := by
  obtain ⟨hview', hcfg, ha64, ha32⟩ := s.placeAtPc_keeps (bytesOfWord i.view (encode i))
  have hviewU : u.view = s.view := by rw [hu, ← hview']
  have hcfgU : u.cfg = s.cfg := by rw [hu, ← hcfg]
  have hpc : u.pcOf = s.pcOf := by simp only [State.pcOf, hu, hview', ha64, ha32]
  have hendU : u.textEnd = (s.placeAtPc (bytesOfWord i.view (encode i))).textEnd := by rw [hu]; rfl
  have htopU : u.textEnd < View.addressLimit u.view := by
    rw [hviewU, hendU]
    rcases s.placeAtPc_textEnd (bytesOfWord i.view (encode i)) with hend | hend <;> rw [hend]
    · exact htop
    · exact hroom
  have hbyte : ∀ k (hk : k < 4), u.textByte (u.pcOf + k) = some (byteOfWord u.view (encode i) k) := by
    intro k hk
    rw [hpc, hviewU, hview]
    subst hu
    refine (s.placeAtPc_textByte (bytesOfWord i.view (encode i)) rfl k hk).trans ?_
    interval_cases k <;> rfl
  have hfetch : u.fetch = .ok (encode i) := by
    rw [State.fetch_of_bytesAtPc ⟨by rw [hpc, hviewU, halign], hbyte 0 (by decide), hbyte 1 (by decide),
      hbyte 2 (by decide), hbyte 3 (by decide)⟩, wordOfBytes_byteOfWord]
  have hexistsU : u.viewExists = true := by
    rw [State.viewExists_iff, hviewU, hcfgU, ← State.viewExists_iff, hexists]
  have hdecode : decode u.cfg u.view (encode i) = .ok i := by
    rw [hcfgU, hviewU, hview]
    exact decode_ok_iff.mpr ⟨decodeOfEncode i hwf, hadmitted⟩
  exact step_of_decode_ok (by rw [hu]) (State.launchRefusal_eq_none hexistsU htopU) hfetch hdecode

/-- Settles O34: the row's launch parameters are those the placed word runs under. -/
theorem placedWordRuns : Obligations.PlacedWordRuns := by
  intro s i hwf halign hroom htop
  have hloaded := s.withFetchWord_encode hwf
  obtain ⟨-, -, ha64, ha32⟩ := (s.admitRow i).placeAtPc_keeps (bytesOfWord i.view (encode i))
  refine ⟨step_placed hwf rfl (s.admitRow_viewExists i) (s.admitRow_admitted i) halign hroom htop hloaded, ?_, ?_⟩
  · rw [hloaded]
    exact ha64
  · rw [hloaded]
    exact ha32

end Machine

end Sys2Proof
end

section
/-! SUPPORT. Laws of single instructions: the two variants of ADD, the flags of `AddWithCarry`, and one register in every
field (spec/95_test_vectors.md 2.5; spec/00_scope.md R17; spec/70_reset_and_hazards.md R136). -/

namespace Sys2Proof.Machine

open Statements

theorem xReg_addDone {rd : BitVec 5} (hrd : rd ≠ 31#5) (v : DWord) (s : State) : xReg (addDone rd v s) rd = v := by
  have hlt : rd.toNat < 31 := by bv_omega
  rw [addDone_eq_movedA64]
  exact getD_toList_setIfInBounds_same s.a64.x hlt v _

theorem xspReg_of_ne {n : BitVec 5} (hn : n ≠ 31#5) (s : State) : xspReg s n = xReg s n := if_neg hn

theorem rReg_crcDone {rd : BitVec 4} (hrd : rd ≠ 15#4) (size : Nat) (crc32c : Bool) (rn rm : BitVec 4) (s : State) :
    rReg (crcDone size crc32c rn rd rm s) rd = crc size (rReg s rn) ((rReg s rm).setWidth size) crc32c := by
  have hlt : rd.toNat < 15 := by bv_omega
  exact getD_toList_setIfInBounds_same s.a32.r hlt _ _

/-- A field of the low half is a field of the whole. -/
theorem extractLsb'_setWidth_32 (v : DWord) {len : Nat} (hlen : len ≤ 32) :
    (v.setWidth 32).extractLsb' 0 len = v.extractLsb' 0 len := by
  rw [← BitVec.setWidth_eq_extractLsb' hlen, BitVec.setWidth_setWidth_of_le _ hlen,
    BitVec.setWidth_eq_extractLsb' (by omega)]

/-- Sign extension to 32 bits is the low half of that to 64. -/
theorem setWidth_signExtend_64 {len : Nat} (v : BitVec len) : (v.signExtend 64).setWidth 32 = v.signExtend 32 := by
  apply BitVec.eq_of_getLsbD_eq
  intro k hk
  have hk64 : k < 64 := by omega
  rw [BitVec.getLsbD_setWidth, BitVec.getLsbD_signExtend, BitVec.getLsbD_signExtend, decide_eq_true hk64,
    Bool.and_comm, Bool.true_and, Bool.and_comm]

/-- The table of R73 is the low half of that of R74. -/
theorem addOperand64_low (v : DWord) (option : ExtendType) :
    (addOperand64 v option).setWidth 32 = addOperand32 (v.setWidth 32) option := by
  have hlow : v.extractLsb' 0 32 = v.setWidth 32 := (BitVec.setWidth_eq_extractLsb' (by decide)).symm
  cases option with
  | uxtb | uxth =>
    rw [addOperand64, addOperand32, extractLsb'_setWidth_32 v (by decide), BitVec.setWidth_setWidth_of_le _ (by decide)]
  | sxtb | sxth => rw [addOperand64, addOperand32, extractLsb'_setWidth_32 v (by decide), setWidth_signExtend_64]
  | uxtw => rw [addOperand64, addOperand32, hlow, BitVec.setWidth_setWidth_of_le _ (by decide), BitVec.setWidth_eq]
  | sxtw => rw [addOperand64, addOperand32, hlow, setWidth_signExtend_64, BitVec.signExtend_eq]
  | uxtx | sxtx => rfl

theorem addResult32_eq (rm : BitVec 5) (option : ExtendType) (imm3 : BitVec 3) (rn : BitVec 5) (s : State) :
    addResult32 rm option imm3 rn s = ((addResult64 rm option imm3 rn s).setWidth 32).setWidth 64 := by
  have hsum : (addResult64 rm option imm3 rn s).setWidth 32 =
      (xspReg s rn).setWidth 32 + (addOperand32 ((xReg s rm).setWidth 32) option <<< imm3.toNat) := by
    rw [addResult64, BitVec.setWidth_add _ _ (by decide), BitVec.setWidth_shiftLeft_of_le (by decide), addOperand64_low]
  rw [addResult32, hsum]

/-- Settles O3. -/
theorem addVariantsAgree : Obligations.AddVariantsAgree := by
  obtain ⟨-, hdone64, -⟩ := addExtended64Row
  refine ⟨fun rm option imm3 rn rd s t u himm3 hrd h32 h64 => ?_, fun rm rn rd s hrm hrn => ?_⟩
  · obtain ⟨-, hdone32, -⟩ := addExtended32Row
    rw [hdone32 _ _ _ _ _ _ himm3] at h32
    rw [hdone64 _ _ _ _ _ _ himm3] at h64
    cases h32
    cases h64
    rw [xReg_addDone hrd, xReg_addDone hrd, addResult32_eq]
  · have hresult : ∀ a b : BitVec 5, b ≠ 31#5 → addResult64 a .uxtx 0#3 b s = xReg s b + xReg s a := fun a b hb => by
      rw [addResult64, xspReg_of_ne hb]
      simp [addOperand64]
    rw [hdone64 _ _ _ _ _ _ (by decide), hdone64 _ _ _ _ _ _ (by decide), hresult rm rn hrn, hresult rn rm hrm,
      BitVec.add_comm]

/-- Settles O41: CRC of a word with itself is zero, and a sum of a register with itself is its double. -/
theorem sourcesReadBeforeWrite : Obligations.SourcesReadBeforeWrite := by
  obtain ⟨-, hzero⟩ := crcDataMeetsAccumulator
  refine ⟨fun r s hext hr => ?_, fun r s hext hit hr => ?_, fun r s hr => ?_⟩
  · obtain ⟨-, -, -, hdone, -⟩ := crc32A1Rows
    refine ⟨_, hdone r r r s hext hr hr hr, ?_⟩
    rw [rReg_crcDone hr, BitVec.setWidth_eq, hzero]
  · obtain ⟨-, -, -, hdone, -⟩ := crc32T1Rows
    refine ⟨_, hdone r r r s hit hext hr hr hr, ?_⟩
    rw [rReg_crcDone hr, BitVec.setWidth_eq, hzero]
  · obtain ⟨-, hdone, -⟩ := addExtended64Row
    refine ⟨_, hdone r .uxtx 0#3 r r s (by decide), ?_⟩
    rw [xReg_addDone hr, addResult64, xspReg_of_ne hr, BitVec.two_mul]
    simp [addOperand64]

/-- The signed sum, taken modulo 2^N into the signed range, is the signed value of the result. -/
theorem addWithCarry_toInt {n : Nat} (x y : BitVec n) (carry : Bool) :
    (addWithCarry x y carry).1.toInt = (x.toInt + y.toInt + (carry.toNat : Int)).bmod (2 ^ n) := by
  rw [addWithCarry, BitVec.toInt_ofNat', BitVec.toInt_eq_toNat_bmod, BitVec.toInt_eq_toNat_bmod]
  push_cast
  exact Int.add_bmod_eq_add_bmod_right _ (Int.add_bmod ..)

/-- Only the integers of the signed range are their own residue there. -/
theorem bmod_two_pow_eq_self_iff {n : Nat} (hn : 0 < n) (z : Int) :
    z.bmod (2 ^ n) = z ↔ -(2 ^ (n - 1) : Int) ≤ z ∧ z < 2 ^ (n - 1) := by
  obtain ⟨m, rfl⟩ := Nat.exists_eq_add_of_lt hn
  rw [Int.bmod_eq_iff (by positivity)]
  have hhalf : ((2 ^ (0 + m + 1) : ℕ) : Int) = 2 * 2 ^ m := by push_cast; ring
  have hpred : 0 + m + 1 - 1 = m := by omega
  rw [hhalf, hpred, sub_self]
  constructor
  · rintro ⟨hlow, hhigh, -⟩
    omega
  · rintro ⟨hlow, hhigh⟩
    exact ⟨by omega, by omega, dvd_zero _⟩

/-- Settles O4: C and V ask whether the exact sums survive being narrowed. -/
theorem addWithCarryFlags : Obligations.AddWithCarryFlags := by
  intro n x y carry hn r
  have hresult : r.1.toNat = (x.toNat + y.toNat + carry.toNat) % 2 ^ n := BitVec.toNat_ofNat ..
  have hc : r.2.c = true ↔ r.1.toNat ≠ x.toNat + y.toNat + carry.toNat := bne_iff_ne
  have hv : r.2.v = true ↔ r.1.toInt ≠ x.toInt + y.toInt + (carry.toNat : Int) := bne_iff_ne
  refine ⟨hresult, rfl, beq_iff_eq, ?_, ?_⟩
  · rw [hc, hresult, Ne, Nat.mod_eq_iff_lt (by positivity), not_lt]
  · rw [hv, addWithCarry_toInt, Ne, bmod_two_pow_eq_self_iff hn, not_and_or, not_le, not_lt]

end Sys2Proof.Machine
end
